-- ==== Sys2Proof/Word.lean ====
section
/-! DEFINITION. The word types of the P115 codec core: bytes and 32-bit registers
(00_scope.md R10 and section 4). Addresses and lengths inside rules are naturals (R10). -/

namespace Sys2Proof

/-- A byte of a byte string or of DMEM (00_scope.md section 4). -/
abbrev Byte := BitVec 8

/-- A 32-bit register value (00_scope.md R10). -/
abbrev Word := BitVec 32

/-- The 12 bytes of the key register, `KREG[0]` first (10_state.md R29). -/
abbrev Key := Vector Byte 12

end Sys2Proof
end

