-- ==== Sys2Proof/Config.lean ====
section
/-! DEFINITION. The implementation parameters of 00_scope.md R8 and the constants of R9 and of
10_state.md section 4. Every parameter is an opaque constant, also where the spec gives a default
(log entry 3): nothing can be proved of its value beyond the bounds built into it, so a statement holds
for every admissible configuration. The free byte of every `any` of the spec is opaque too. -/

namespace Sys2Proof.Config

/-- The two reduction methods of `MODEXP_METHOD` (00_scope.md R8, 43_modexp.md R102). -/
inductive ReductionMethod where
  /-- Montgomery reduction with `R = 2^1024`. -/
  | montgomery
  /-- Barrett reduction with `floor(2^2048 / N)`. -/
  | barrett
  deriving DecidableEq, Repr, Inhabited

/-- `BASE`, the host physical address of the device window: OPEN (R8). Log entry 4. -/
opaque base : Nat

/-- Bytes in the device window (20_memory.md R41). -/
def windowSize : Nat := 0x02000000

/-- First window offset past the register region (20_memory.md R41). -/
def registerEnd : Nat := 0x100

/-- Window offset of DMEM address 0 (20_memory.md R41). -/
def dmemOffset : Nat := 0x01000000

/-- How many 4-byte words `DMEM_SIZE` exceeds its least legal value by: a parameter of the build (R8).
Log entry 3. -/
opaque dmemExtra : Fin 4194241

/-- `DMEM_SIZE`: a multiple of 4 with `256 <= DMEM_SIZE <= 2^24`, every such value possible (R8,
70_reset_and_hazards.md R137). -/
def dmemSize : Nat := 4 * (dmemExtra.val + 64)

/-- How far `KT_LEN` exceeds its least legal value: OPEN (10_state.md R33). Log entry 1. -/
opaque ktExtra : Nat

/-- `KT_LEN >= 133` (10_state.md R33). -/
def ktLen : Nat := 133 + ktExtra

/-- The KeyTable bytes, `KT[i]` for `i < KT_LEN`: OPEN (10_state.md R33). Log entry 1. -/
opaque kt : Nat → Byte

/-- The 1022 bits of N between its top bit and its lowest bit: OPEN (10_state.md R37). Log entry 2. -/
opaque modNMiddle : BitVec 1022

/-- `MOD_N`: `2^1023 <= N < 2^1024` and N odd, whatever the open bits (10_state.md R37). -/
def modN : Nat := 2 ^ 1023 + 2 * modNMiddle.toNat + 1

/-- `E`, the fixed exponent (10_state.md R38, 90_conflicts.md C3). -/
def expE : Nat := 0x10001

/-- `MASK4` (10_state.md R34). -/
def mask4 : List Byte := [0x8d, 0xa5, 0xa5, 0x8d]

/-- `MASK12` (10_state.md R35, 90_conflicts.md C2). -/
def mask12 : List Byte :=
  [0x78, 0x06, 0xad, 0x4c, 0x33, 0x86, 0x5d, 0x18, 0x4c, 0x01, 0x3f, 0x46]

/-- The bytes of `ENC_SEED`: a parameter of the build (R8, 10_state.md R36). Log entry 3. -/
opaque encSeedByte : Nat → Byte

/-- `ENC_SEED`, 16 bytes (10_state.md R36). -/
def encSeed : List Byte := (List.range 16).map encSeedByte

/-- `MODEXP_METHOD`: the implementation's choice, not observable (R8, 43_modexp.md R102). Log entry 4. -/
opaque modexpMethod : ReductionMethod

/-- `HOST_ORDERING`: OPEN (R8, 20_memory.md R60). Log entry 4. -/
opaque hostOrdering : Bool

/-- The byte that the draw number `draw` gives DMEM address `a` wherever the spec says `any`
(00_scope.md section 4; 60_exceptions.md R122, 70_reset_and_hazards.md R134 and R136).
Log entries 5 and 6. -/
opaque freeByte (draw a : Nat) : Byte

/-- The parameters that 70_reset_and_hazards.md R137 constrains. -/
structure Params where
  /-- `DMEM_SIZE` -/
  dmemSize : Nat
  /-- `KT_LEN` -/
  ktLen : Nat
  /-- `MOD_N` -/
  modN : Nat
  /-- `ENC_SEED` -/
  encSeed : List Byte
  deriving DecidableEq, Repr

/-- The parameters this model is built from. -/
def params : Params := { dmemSize := dmemSize, ktLen := ktLen, modN := modN, encSeed := encSeed }

/-- The same with the two defaults that R8 gives: 65536 bytes of DMEM and a seed of zero bytes. -/
def Params.withDefaults (p : Params) : Params :=
  { p with dmemSize := 65536, encSeed := List.replicate 16 0x00 }

end Sys2Proof.Config
end

