-- ==== Sys2Proof/Syntax.lean ====
section
/-! DEFINITION. The commands of the core: one constructor per row of spec/opcode_table.json
(30_encoding.md R67). A command word carries no operand (R66), so no constructor has a field. -/

namespace Sys2Proof

/-- The eleven commands (30_encoding.md R67). Every other command word is illegal (R70) and is no
command: `decode` gives none and the machine's step completes it with `ERR_OPCODE`. -/
inductive Instr where
  /-- 0x00, 40_command.md R80 -/
  | nop
  /-- 0x01, 41_keystream.md R89 -/
  | xor4
  /-- 0x02, 41_keystream.md R90 -/
  | xor12
  /-- 0x03, 41_keystream.md R91 -/
  | xork
  /-- 0x04, 41_keystream.md R92 -/
  | rev
  /-- 0x05, 41_keystream.md R93 -/
  | kderive
  /-- 0x10, 42_padding.md R98 -/
  | pad
  /-- 0x11, 42_padding.md R99 -/
  | unpad
  /-- 0x20, 43_modexp.md R104 -/
  | modexp
  /-- 0x30, 44_pipeline.md R108 -/
  | encrypt
  /-- 0x31, 44_pipeline.md R112 -/
  | decrypt
  deriving DecidableEq, Repr

end Sys2Proof
end

