-- ==== Sys2Proof/WellFormed.lean ====
section
/-! DEFINITION. What is well formed: a command word (30_encoding.md R65 to R70) and the parameters a
core is built from (70_reset_and_hazards.md R137). A command has no field to check (R66), so every
`Instr` is well formed. -/

namespace Sys2Proof

/-- Every command is well formed: it has no operand field (30_encoding.md R66). -/
def Instr.wellFormed : Instr → Bool
  | .nop | .xor4 | .xor12 | .xork | .rev | .kderive
  | .pad | .unpad | .modexp | .encrypt | .decrypt => true

/-- RSVD, bits 31:8, is zero (30_encoding.md R65, R69). -/
def rsvdZero (w : Word) : Bool := w.extractLsb' 8 24 == 0

/-- OPCODE, bits 7:0, lies outside the 245 illegal values, which 30_encoding.md R68 lists as four
ranges. -/
def opcodeDefined (w : Word) : Bool :=
  let op := (w.extractLsb' 0 8).toNat
  !(0x06 ≤ op && op ≤ 0x0F) && !(0x12 ≤ op && op ≤ 0x1F) &&
    !(0x21 ≤ op && op ≤ 0x2F) && !(0x32 ≤ op && op ≤ 0xFF)

/-- A command word is legal when it is one of the eleven of R67 (30_encoding.md R68, R69, R70). -/
def wordWellFormed (w : Word) : Bool := rsvdZero w && opcodeDefined w

namespace Config

/-- `DMEM_SIZE` is a multiple of 4 from 256 to 2^24 (70_reset_and_hazards.md R137). -/
def Params.sizeOk (p : Params) : Bool :=
  p.dmemSize % 4 == 0 && 256 ≤ p.dmemSize && p.dmemSize ≤ 2 ^ 24

/-- `KT_LEN >= 133` (R137, 10_state.md R33). -/
def Params.ktOk (p : Params) : Bool := 133 ≤ p.ktLen

/-- `2^1023 <= N < 2^1024` and N odd (R137, 10_state.md R37). -/
def Params.modNOk (p : Params) : Bool :=
  2 ^ 1023 ≤ p.modN && p.modN < 2 ^ 1024 && p.modN % 2 == 1

/-- `ENC_SEED` has 16 bytes (00_scope.md R8, 10_state.md R36). -/
def Params.seedOk (p : Params) : Bool := p.encSeed.length == 16

/-- A configuration from which a model may be built; every other one is refused
(70_reset_and_hazards.md R137). -/
def Params.admissible (p : Params) : Bool := p.sizeOk && p.ktOk && p.modNOk && p.seedOk

end Config

end Sys2Proof
end

