-- ==== Sys2Proof/Decode.lean ====
section
/-! DEFINITION. Decoding and encoding of command words (30_encoding.md R65, R67). Decoding is total
on every 32-bit word; a word that is not one of the eleven is refused, none (R68, R69, R70), and the
machine's step then completes it with `ERR_OPCODE`. -/

namespace Sys2Proof

/-- The field OPCODE of a command word, bits 7:0 (30_encoding.md R65). -/
def opcodeField (w : Word) : Byte := w.extractLsb' 0 8

/-- The field RSVD of a command word, bits 31:8 (30_encoding.md R65). -/
def rsvdField (w : Word) : BitVec 24 := w.extractLsb' 8 24

/-- The command that an OPCODE value selects, none for an illegal one (30_encoding.md R67, R68). -/
def decodeOpcode (op : Byte) : Option Instr :=
  if op = 0x00 then some .nop
  else if op = 0x01 then some .xor4
  else if op = 0x02 then some .xor12
  else if op = 0x03 then some .xork
  else if op = 0x04 then some .rev
  else if op = 0x05 then some .kderive
  else if op = 0x10 then some .pad
  else if op = 0x11 then some .unpad
  else if op = 0x20 then some .modexp
  else if op = 0x30 then some .encrypt
  else if op = 0x31 then some .decrypt
  else none

/-- The command a word written to CMD stands for; a word with RSVD not zero is illegal whatever its
OPCODE (30_encoding.md R69). -/
def decode (w : Word) : Option Instr :=
  if rsvdField w = 0 then decodeOpcode (opcodeField w) else none

/-- The OPCODE of each command (30_encoding.md R67). -/
def Instr.opcode : Instr → Byte
  | .nop => 0x00
  | .xor4 => 0x01
  | .xor12 => 0x02
  | .xork => 0x03
  | .rev => 0x04
  | .kderive => 0x05
  | .pad => 0x10
  | .unpad => 0x11
  | .modexp => 0x20
  | .encrypt => 0x30
  | .decrypt => 0x31

/-- The command word of each command: `zext_32(OPCODE)` (30_encoding.md R67). -/
def encode (i : Instr) : Word := i.opcode.setWidth 32

/-- The word whose low `nbits` bits are those of `w` and whose other bits are zero: the form in which
spec/opcode_table.json numbers a row's bits. -/
def tableWord (nbits w : Nat) : Word := BitVec.ofNat 32 (w % 2 ^ nbits)

/-- The command the decoder reads from the bits `w` of an opcode-table row. -/
def decodeTableWord (nbits w : Nat) : Option Instr := decode (tableWord nbits w)

end Sys2Proof
end

