-- ==== Sys2Proof/Machine/State.lean ====
section
/-! DEFINITION. The state of the core as plain data, its value after a hard reset, and the reasons a
step of the model could stop. R15 gives the state as the tuple (regs, KREG, inflight, DMEM); four more
fields are the model's own (`dmemDraw`, `draws`, `arrivals`, `rdata`; log entries 5, 6, 7, 9). -/

namespace Sys2Proof.Machine

/-- The error codes a command can complete with (60_exceptions.md R118). -/
inductive ErrCode where
  /-- 0x01: OPCODE not defined, or RSVD not zero -/
  | errOpcode
  /-- 0x02: illegal length for KDERIVE, PAD, UNPAD or MODEXP -/
  | errLen
  /-- 0x03: DECRYPT length not a multiple of 128 -/
  | errNotBlocks
  /-- 0x04: source or destination range not in DMEM -/
  | errRange
  /-- 0x05: source and destination ranges overlap -/
  | errOverlap
  /-- 0x06: a block without a zero byte after its leading zeros -/
  | errNosep
  /-- 0x07: DECRYPT accumulator of fewer than 16 bytes -/
  | errShort
  deriving DecidableEq, Repr

/-- The latched command record (10_state.md R39). -/
structure Latch where
  /-- `w`: the 32-bit value written to CMD -/
  word : Word
  /-- SRC at the launch -/
  src : Word
  /-- LEN at the launch -/
  len : Word
  /-- DST at the launch -/
  dst : Word
  deriving DecidableEq, Repr

/-- A host access `(kind, offset, width, data)` at a window offset (20_memory.md R44). A write of
width `n < 4` uses the low `8*n` bits of `data`; a width other than 1, 2, 4 is refused. -/
inductive Access where
  | read (offset width : Nat)
  | write (offset width : Nat) (data : Word)
  deriving DecidableEq, Repr

/-- One step of some agent in the single total order of 20_memory.md R57. -/
inductive Event where
  /-- a host access arrives at the port (R14(a)) -/
  | access (a : Access)
  /-- the command engine takes its turn: a completion step if a command is in flight (R14(b), R75) -/
  | engine
  /-- the platform's reset input (70_reset_and_hazards.md R134) -/
  | hardReset
  deriving DecidableEq, Repr

/-- DMEM contents that are determined: (address, byte) pairs, addresses strictly rising. An address
with no pair has no recorded value; the machine reads a free byte there (R134 `any`, log entry 5). -/
abbrev Memory := List Host.Cell

/-- The whole state: the tuple of 10_state.md R15, then the model's own fields. STATUS and CTRL are
held by field: BUSY is `inflight` (R22, R39) and reserved bits have no storage (log entry 10). -/
structure State where
  /-- STATUS.DONE (R22) -/
  done : Bool
  /-- STATUS.ERR (R22) -/
  err : Bool
  /-- STATUS.ACCERR (R22) -/
  accerr : Bool
  /-- STATUS.ERRCODE (R22) -/
  errcode : Byte
  /-- CTRL.IRQ_EN (R23) -/
  irqEn : Bool
  /-- SRC (R24) -/
  src : Word
  /-- LEN (R25) -/
  len : Word
  /-- DST (R26) -/
  dst : Word
  /-- OUTLEN (R27) -/
  outlen : Word
  /-- KREG (R29) -/
  kreg : Key
  /-- the command in flight (R39) -/
  inflight : Option Latch
  /-- DMEM (20_memory.md R42), its determined bytes -/
  dmem : Memory
  /-- MODEL's own: the draw that unlisted DMEM bytes read as (log entry 5) -/
  dmemDraw : Nat
  /-- MODEL's own: how many draws have been made (log entry 6) -/
  draws : Nat
  /-- MODEL's own: the data the port returned to the latest host read (log entry 9) -/
  rdata : Word
  /-- MODEL's own: the agents' next steps, oldest first (log entry 7) -/
  arrivals : List Event
  deriving DecidableEq, Repr

/-- Why a step could stop with a fault. No reachable step raises one (40_command.md R76). -/
inductive Fault where
  /-- Raised by MemRead and MemWrite for a byte outside DMEM (20_memory.md R52: never, after the range
  check). Safe: a stop where the spec has no behaviour. -/
  | outsideDmem (a n : Nat)
  deriving DecidableEq, Repr

/-- Why a step could be refused. -/
inductive Refusal where
  /-- Raised by `exec` for a command that has no meaning yet. Safe. No arm raises it. -/
  | notModelled (mnemonic : String)
  /-- Raised by `exec` when no command is in flight: the completion step is not enabled
  (40_command.md R75). `step` never raises it. Safe. -/
  | noCommandInFlight
  deriving DecidableEq, Repr

/-- The machine after a hard reset (70_reset_and_hazards.md R134; R18 for the register values): every
register zero, KREG zero, no command in flight, every DMEM byte free. -/
def State.reset : State where
  done := false
  err := false
  accerr := false
  errcode := 0
  irqEn := false
  src := 0
  len := 0
  dst := 0
  outlen := 0
  kreg := Vector.replicate 12 0
  inflight := none
  dmem := []
  dmemDraw := 0
  draws := 1
  rdata := 0
  arrivals := []

end Sys2Proof.Machine
end

