-- ==== Sys2Proof/Machine/Bytes.lean ====
section
/-! DEFINITION. Byte strings and integers (00_scope.md R11 to R13, 20_memory.md R45 and R48, R49). -/

namespace Sys2Proof.Machine

/-- `ceil(a / b)` on naturals (00_scope.md section 4). -/
def ceilDiv (a b : Nat) : Nat := (a + b - 1) / b

/-- `OS2IP(s)`, the big-endian integer of a byte string (00_scope.md R11). -/
def os2ip (s : List Byte) : Nat := s.foldl (fun x b => x * 256 + b.toNat) 0

/-- `I2OSP(x, n)`, the big-endian string of `n` bytes of `x < 256^n`: byte `i` is the digit of
`256^(n-1-i)` (00_scope.md R12). -/
def i2osp (x n : Nat) : List Byte :=
  (List.range n).map fun i => BitVec.ofNat 8 (x / 256 ^ (n - 1 - i))

/-- `MinBE(x)` for `x < 256^128`: `I2OSP(x, 128)` without its leading zero bytes (00_scope.md R13). -/
def minBE (x : Nat) : List Byte := (i2osp x 128).dropWhile (· == 0)

/-- The little-endian integer of a byte string: the lanes of a host access (20_memory.md R45). -/
def leValue : List Byte → Nat
  | [] => 0
  | b :: bs => b.toNat + 256 * leValue bs

/-- Lane `i` of a bus value: bits `8i+7 : 8i` (20_memory.md R45, 10_state.md R29). -/
def lane (v : Word) (i : Nat) : Byte := v.extractLsb' (8 * i) 8

/-- The lowest `w` lanes of a bus value, lowest address first (20_memory.md R45). -/
def lanes (v : Word) (w : Nat) : List Byte := (List.range w).map (lane v)

/-- Bytes `i` to `j-1` of a byte string, `s[i..j)` (00_scope.md section 4). -/
def slice (s : List Byte) (i j : Nat) : List Byte := (s.take j).drop i

end Sys2Proof.Machine
end

