-- ==== Sys2Proof/Machine/Flags.lean ====
section
/-! DEFINITION. The status flags: STATUS (10_state.md R22), CTRL (R23), the error codes
(60_exceptions.md R118) and the interrupt output (R40). The core has no other flag (R17). -/

namespace Sys2Proof.Machine

/-- The value that STATUS.ERRCODE holds for an error (60_exceptions.md R118). -/
def ErrCode.code : ErrCode → Byte
  | .errOpcode => 0x01
  | .errLen => 0x02
  | .errNotBlocks => 0x03
  | .errRange => 0x04
  | .errOverlap => 0x05
  | .errNosep => 0x06
  | .errShort => 0x07

/-- STATUS.BUSY: 1 exactly when a command is in flight (10_state.md R22, R39). -/
def State.busy (s : State) : Bool := s.inflight.isSome

/-- The value of STATUS: BUSY, DONE, ERR, ACCERR in bits 0 to 3, ERRCODE in bits 15:8, every reserved
bit 0 (10_state.md R22). -/
def State.statusWord (s : State) : Word :=
  (0 : BitVec 16) ++ s.errcode ++ (0 : BitVec 4) ++ BitVec.ofBool s.accerr ++ BitVec.ofBool s.err ++
    BitVec.ofBool s.done ++ BitVec.ofBool s.busy

/-- A host write to STATUS: 1 clears DONE, ERR, ACCERR each; every other bit is ignored
(10_state.md R22). -/
def State.writeStatus (s : State) (v : Word) : State :=
  { s with
    done := s.done && !v.getLsbD 1
    err := s.err && !v.getLsbD 2
    accerr := s.accerr && !v.getLsbD 3 }

/-- The value of CTRL: IRQ_EN in bit 0; SRST and the reserved bits read 0 (10_state.md R23). -/
def State.ctrlWord (s : State) : Word := (0 : BitVec 31) ++ BitVec.ofBool s.irqEn

/-- The interrupt output: `CTRL.IRQ_EN AND STATUS.DONE` (10_state.md R40, 60_exceptions.md R124). -/
def State.irq (s : State) : Bool := s.irqEn && s.done

/-- A refused host access sets ACCERR (20_memory.md R47). -/
def State.setAccerr (s : State) : State := { s with accerr := true }

/-- What every completion does to the command state: `inflight <- none`, so BUSY <- 0, and DONE <- 1
(40_command.md R75). -/
def State.finish (s : State) : State := { s with inflight := none, done := true }

end Sys2Proof.Machine
end

