-- ==== Sys2Proof/Machine/Operands.lean ====
section
/-! DEFINITION. The operands of a command and the checks on them that do not depend on DMEM: OUTMAX
(40_command.md R78), the ranges (R79) and checks 2 to 5 of 60_exceptions.md R120. Operands are the
latched values, read as naturals, never wrapped (30_encoding.md R66, 00_scope.md R10). -/

namespace Sys2Proof.Machine

/-- `OUTMAX(op, len)`, the most bytes a command can write at `dst` (40_command.md R78). -/
def outMax : Instr → Nat → Nat
  | .nop, _ => 0
  | .kderive, _ => 0
  | .xor4, len => len
  | .xor12, len => len
  | .xork, len => len
  | .rev, len => len
  | .pad, _ => 128
  | .modexp, _ => 128
  | .unpad, _ => 126
  | .encrypt, len => 128 * ceilDiv (16 + len) 117
  | .decrypt, len => 126 * (len / 128) - 16

/-- Check 3: the length (60_exceptions.md R120). -/
def lengthError : Instr → Nat → Option ErrCode
  | .kderive, len => if len ≠ 16 then some .errLen else none
  | .pad, len => if len > 117 then some .errLen else none
  | .unpad, len => if len ≠ 128 then some .errLen else none
  | .modexp, len => if len ≠ 128 then some .errLen else none
  | .decrypt, len => if len % 128 ≠ 0 then some .errNotBlocks else none
  | .nop, _ => none
  | .xor4, _ => none
  | .xor12, _ => none
  | .xork, _ => none
  | .rev, _ => none
  | .encrypt, _ => none

/-- The source range `[src, src + len)` is in DMEM (40_command.md R79). -/
def sourceInDmem (l : Latch) : Bool := l.src.toNat + l.len.toNat ≤ Config.dmemSize

/-- The destination range `[dst, dst + n)` of OUTMAX `n` is in DMEM (40_command.md R79). -/
def destInDmem (l : Latch) (n : Nat) : Bool := n = 0 || l.dst.toNat + n ≤ Config.dmemSize

/-- The source range and the destination range of OUTMAX `n` overlap (40_command.md R79). -/
def rangesOverlap (l : Latch) (n : Nat) : Bool :=
  0 < l.len.toNat && 0 < n && l.src.toNat < l.dst.toNat + n && l.dst.toNat < l.src.toNat + l.len.toNat

/-- Checks 2 to 5 of 60_exceptions.md R120, in their order: the first error, none if all pass. -/
def checkOperands (i : Instr) (l : Latch) : Option ErrCode :=
  if i = .nop then none
  else
    match lengthError i l.len.toNat with
    | some e => some e
    | none =>
      if !(sourceInDmem l && destInDmem l (outMax i l.len.toNat)) then some .errRange
      else if rangesOverlap l (outMax i l.len.toNat) then some .errOverlap
      else none

/-- How many bytes at `dst` an abandoned command may have written: OUTMAX, and 0 when its checks 1 to 5
would fail (70_reset_and_hazards.md R136). -/
def abandonedBytes (l : Latch) : Nat :=
  match decode l.word with
  | none => 0
  | some i => if checkOperands i l = none then outMax i l.len.toNat else 0

end Sys2Proof.Machine
end

