-- ==== Sys2Proof/Machine/Ops.lean ====
section
/-! DEFINITION. The shared operations over DMEM, KREG and the command state: MemRead and MemWrite
(20_memory.md R52), the free bytes of `any`, the launch (40_command.md R73), the two kinds of completion
(R75, 60_exceptions.md R122) and the resets (70_reset_and_hazards.md R134, R136). -/

namespace Sys2Proof.Machine

/-- The recorded value of an address, none where no value is recorded. -/
def Memory.get? : Memory → Nat → Option Byte
  | [], _ => none
  | c :: m, a => if a = c.1 then some c.2 else Memory.get? m a

/-- Record a byte, keeping the addresses strictly rising. -/
def Memory.set : Memory → Nat → Byte → Memory
  | [], a, v => [(a, v)]
  | c :: m, a, v =>
    if a < c.1 then (a, v) :: c :: m
    else if a = c.1 then (a, v) :: m
    else c :: Memory.set m a v

/-- Record a byte string from an address on. -/
def Memory.setBytes : Memory → Nat → List Byte → Memory
  | m, _, [] => m
  | m, a, v :: vs => Memory.setBytes (Memory.set m a v) (a + 1) vs

/-- The one canonical form of a memory: addresses strictly rising. An unlisted address has no recorded
value, so no entry can equal it (log entry 5). -/
abbrev Memory.wf (m : Memory) : Prop := m.Pairwise (fun c d => c.1 < d.1)

/-- `DMEM[a]`: the recorded byte, or the free byte of an address that nothing has written since the
hard reset (20_memory.md R42, 70_reset_and_hazards.md R134). -/
def State.byteAt (s : State) (a : Nat) : Byte :=
  (Memory.get? s.dmem a).getD (Config.freeByte s.dmemDraw a)

/-- The byte string `DMEM[a..a+n)` (20_memory.md R52). -/
def State.bytesAt (s : State) (a n : Nat) : List Byte := (List.range n).map fun i => s.byteAt (a + i)

/-- `DMEM[a+i] <- v[i]` for every `i` (20_memory.md R52). -/
def State.putBytes (s : State) (a : Nat) (v : List Byte) : State :=
  { s with dmem := Memory.setBytes s.dmem a v }

/-- Every byte of `DMEM[a..a+n)` takes a fresh free value, and nothing else changes
(60_exceptions.md R122, 70_reset_and_hazards.md R136; log entry 6). -/
def State.havoc (s : State) (a n : Nat) : State :=
  { s.putBytes a ((List.range n).map fun i => Config.freeByte s.draws (a + i)) with
    draws := s.draws + 1 }

/-- `MemRead(a, n)` (20_memory.md R52); a range outside DMEM does not exist. -/
def State.memRead (s : State) (a n : Nat) : Except Fault (List Byte) :=
  if a + n ≤ Config.dmemSize then .ok (s.bytesAt a n) else .error (.outsideDmem a n)

/-- `MemWrite(a, n, v)` with `|v| = n` (20_memory.md R52); writing no byte reaches no address. -/
def State.memWrite (s : State) (a : Nat) (v : List Byte) : Except Fault State :=
  if v = [] ∨ a + v.length ≤ Config.dmemSize then .ok (s.putBytes a v)
  else .error (.outsideDmem a v.length)

/-- What a command body returns: `Ok(out, key)` or `Fail(code)` (40_command.md R75, R76). -/
inductive BodyResult where
  /-- `out`: the bytes to write at `dst` or none; `key`: the new KREG or none -/
  | ok (out : Option (List Byte)) (key : Option Key)
  /-- a data-dependent error (check 6 of 60_exceptions.md R120) -/
  | fail (code : ErrCode)
  deriving DecidableEq, Repr

/-- The launch by a CMD write of `w` while idle, one atomic step (40_command.md R73). -/
def State.launch (s : State) (w : Word) : State :=
  { s with
    inflight := some { word := w, src := s.src, len := s.len, dst := s.dst }
    done := false
    err := false
    errcode := 0
    outlen := 0 }

/-- The state once the oldest waiting event has been taken (log entry 7). -/
def State.pop (s : State) : State := { s with arrivals := s.arrivals.tail }

/-- The command word in flight: where the engine takes its command (10_state.md R39,
20_memory.md R63). -/
def State.fetchWord (s : State) : Option Word := s.inflight.map Latch.word

/-- Taking an error: a completion with `Fail(code)` sets ERR and ERRCODE and finishes; OUTLEN and KREG
keep their values and no control is transferred (40_command.md R75, 60_exceptions.md R122, R125). The
bytes that R122 leaves `any` are `State.havoc`'s. -/
def State.failCommand (s : State) (e : ErrCode) : State :=
  { s with err := true, errcode := e.code }.finish

/-- A completion with `Ok(out, key)` (40_command.md R75): MemWrite of `out` at `dst`, KREG, OUTLEN. -/
def State.succeed (s : State) (dst : Nat) (out : Option (List Byte)) (key : Option Key) :
    Except Fault State :=
  match s.memWrite dst (out.getD []) with
  | .error f => .error f
  | .ok t =>
    .ok { t with
      kreg := key.getD t.kreg
      outlen := BitVec.ofNat 32 (out.getD []).length }.finish

/-- The body of a command that reads `n` source bytes at `a` and computes its result from them. -/
def State.withSource (s : State) (a n : Nat) (f : List Byte → BodyResult) : Except Fault BodyResult :=
  match s.memRead a n with
  | .error e => .error e
  | .ok bs => .ok (f bs)

/-- The completion step of the command `i` in flight with body `body` (40_command.md R75, R76): the
checks 2 to 5, then the body, then the effects. Enabled exactly when a command is in flight. Check 1
has been made: `i` is what the latched word decodes to. -/
def runCommand (i : Instr) (body : Latch → State → Except Fault BodyResult) (s : State) :
    Host.Outcome State Fault Refusal :=
  match s.inflight with
  | none => .refused .noCommandInFlight
  | some l =>
    match checkOperands i l with
    | some e => .next (s.failCommand e)
    | none =>
      match body l s with
      | .error f => .fault f
      | .ok (.fail e) => .next ((s.havoc l.dst.toNat (outMax i l.len.toNat)).failCommand e)
      | .ok (.ok out key) =>
        match s.succeed l.dst.toNat out key with
        | .error f => .fault f
        | .ok t => .next t

/-- The registers, KREG and the command state at the values of 70_reset_and_hazards.md R134; DMEM and
the model's own fields as they are. -/
def State.resetRegisters (s : State) : State :=
  { s with
    done := false
    err := false
    accerr := false
    errcode := 0
    irqEn := false
    src := 0
    len := 0
    dst := 0
    outlen := 0
    kreg := Vector.replicate 12 0
    inflight := none }

/-- The soft reset (70_reset_and_hazards.md R136): the registers and KREG reset; the destination range
of a command in flight becomes `any`, every other DMEM byte stays. -/
def State.softReset (s : State) : State :=
  match s.inflight with
  | none => s.resetRegisters
  | some l => (s.havoc l.dst.toNat (abandonedBytes l)).resetRegisters

/-- The hard reset (70_reset_and_hazards.md R134): the registers and KREG reset, every DMEM byte
`any`: nothing is recorded and unlisted bytes read as a fresh draw. -/
def State.hardReset (s : State) : State :=
  { s.resetRegisters with dmem := [], dmemDraw := s.draws, draws := s.draws + 1 }

end Sys2Proof.Machine
end

