-- ==== Sys2Proof/Machine/Command.lean ====
section
/-! DEFINITION. NOP (40_command.md section 4). -/

namespace Sys2Proof.Machine

/-- `Exec_NOP() = Ok(none, none)` (40_command.md R80). -/
def nopBody (_ : Latch) (_ : State) : Except Fault BodyResult := .ok (.ok none none)

/-- NOP (40_command.md R80): its operands are ignored and not checked. -/
def execNop (s : State) : Host.Outcome State Fault Refusal := runCommand .nop nopBody s

end Sys2Proof.Machine
end

