-- ==== Sys2Proof/Machine/Keystream.lean ====
section
/-! DEFINITION. The XOR keystream generator (41_keystream.md): the keystream functions of R81 to R86
and the commands XOR4, XOR12, XORK, REV and KDERIVE. -/

namespace Sys2Proof.Machine

/-- `KSIdx(L, K, j)`: the key index of buffer position `j`, with `r = L mod 4` (41_keystream.md R81). -/
def ksIdx (L K j : Nat) : Nat := if j < L % 4 then j else (j - L % 4) % K

/-- `KS(k, L)`, the keystream of key `k` for length `L` (41_keystream.md R82). -/
def keystream (k : List Byte) (L : Nat) : List Byte :=
  (List.range L).map fun j => k.getD (ksIdx L k.length j) 0

/-- `XorAlign(s, k)` (41_keystream.md R83). -/
def xorAlign (s k : List Byte) : List Byte := List.zipWith (· ^^^ ·) s (keystream k s.length)

/-- `Rev(s)`: byte order reversed, never bit order (41_keystream.md R85, 00_scope.md section 4). -/
def revBytes (s : List Byte) : List Byte := s.reverse

/-- Byte `i` of `Derive(head)`: `KT[132 - 12*i] XOR ((head[i] + KT[12*i]) mod 256)`
(41_keystream.md R86, R87). -/
def deriveByte (kt : Nat → Byte) (head : List Byte) (i : Nat) : Byte :=
  kt (132 - 12 * i) ^^^ (head.getD i 0 + kt (12 * i))

/-- `Derive(head)`, the 12-byte key of a head of at least 12 bytes, for KeyTable `kt`
(41_keystream.md R86, 90_conflicts.md C12). -/
def derive (kt : Nat → Byte) (head : List Byte) : Key := Vector.ofFn fun i => deriveByte kt head i.val

/-- `Exec_XOR4` (41_keystream.md R89). -/
def xor4Body (l : Latch) (s : State) : Except Fault BodyResult :=
  s.withSource l.src.toNat l.len.toNat fun bs => .ok (some (xorAlign bs Config.mask4)) none

/-- `Exec_XOR12` (41_keystream.md R90). -/
def xor12Body (l : Latch) (s : State) : Except Fault BodyResult :=
  s.withSource l.src.toNat l.len.toNat fun bs => .ok (some (xorAlign bs Config.mask12)) none

/-- `Exec_XORK` (41_keystream.md R91): the key is KREG. -/
def xorkBody (l : Latch) (s : State) : Except Fault BodyResult :=
  s.withSource l.src.toNat l.len.toNat fun bs => .ok (some (xorAlign bs s.kreg.toList)) none

/-- `Exec_REV` (41_keystream.md R92). -/
def revBody (l : Latch) (s : State) : Except Fault BodyResult :=
  s.withSource l.src.toNat l.len.toNat fun bs => .ok (some (revBytes bs)) none

/-- `Exec_KDERIVE` (41_keystream.md R93): reads a head of 16 bytes, writes KREG and no DMEM byte. -/
def kderiveBody (l : Latch) (s : State) : Except Fault BodyResult :=
  s.withSource l.src.toNat 16 fun head => .ok none (some (derive Config.kt head))

/-- XOR4: apply the fixed 4-byte mask (41_keystream.md R89). -/
def execXor4 (s : State) : Host.Outcome State Fault Refusal := runCommand .xor4 xor4Body s

/-- XOR12: apply the fixed 12-byte mask (41_keystream.md R90). -/
def execXor12 (s : State) : Host.Outcome State Fault Refusal := runCommand .xor12 xor12Body s

/-- XORK: apply the key register (41_keystream.md R91). -/
def execXork (s : State) : Host.Outcome State Fault Refusal := runCommand .xork xorkBody s

/-- REV: reverse a buffer (41_keystream.md R92). -/
def execRev (s : State) : Host.Outcome State Fault Refusal := runCommand .rev revBody s

/-- KDERIVE: derive the 12-byte key from a 16-byte head (41_keystream.md R93). -/
def execKderive (s : State) : Host.Outcome State Fault Refusal := runCommand .kderive kderiveBody s

end Sys2Proof.Machine
end

