-- ==== Sys2Proof/Machine/ModExp.lean ====
section
/-! DEFINITION. The modular exponent engine (43_modexp.md): `ModExp` by exact exponentiation, which is
what MODEXP, ENCRYPT and DECRYPT use, and the two reduction methods of R102, which the spec says are not
observable (log entry 13). -/

namespace Sys2Proof.Machine

/-- `ModExp(b) = I2OSP(OS2IP(b)^E mod N, 128)` for modulus `n` (43_modexp.md R100, 90_conflicts.md C3).
An input at or above N is reduced with no error (R101). -/
def modExp (n : Nat) (b : List Byte) : List Byte := i2osp (os2ip b ^ Config.expE % n) 128

/-- `k` squarings with the modular product `mul`, starting from `x`. -/
def squarings (mul : Nat → Nat → Nat) : Nat → Nat → Nat
  | 0, x => x
  | k + 1, x => squarings mul k (mul x x)

/-- `x^E` by 16 modular squarings and one modular multiplication (43_modexp.md R102). -/
def squareMultiply (mul : Nat → Nat → Nat) (x : Nat) : Nat := mul (squarings mul 16 x) x

/-- `floor(2^2048 / N)`, the Barrett constant (43_modexp.md R102). -/
def barrettMu (n : Nat) : Nat := 2 ^ 2048 / n

/-- Barrett reduction of `t < 2^2048` modulo `n`. -/
def barrettReduce (n t : Nat) : Nat :=
  let r := t - t * barrettMu n / 2 ^ 2048 * n
  if r < n then r else r - n

/-- `x^E mod n` with Barrett reduction. -/
def powBarrett (n x : Nat) : Nat :=
  squareMultiply (fun a b => barrettReduce n (a * b)) (barrettReduce n x)

/-- Newton's iteration for the inverse of an odd `n` modulo a power of two: each round doubles the
number of right bits, here kept modulo `2^1024`. -/
def inverseRounds (n : Nat) : Nat → Nat
  | 0 => 1
  | k + 1 =>
    let y := inverseRounds n k
    y * (2 + (2 ^ 1024 - n * y % 2 ^ 1024)) % 2 ^ 1024

/-- `-N^-1 mod 2^1024`, the Montgomery constant for one 1024-bit word (43_modexp.md R102). -/
def montgomeryNPrime (n : Nat) : Nat := 2 ^ 1024 - inverseRounds n 10

/-- Montgomery reduction: `t * R^-1 mod n` for `t < R * n`, with `R = 2^1024`. -/
def montgomeryReduce (n t : Nat) : Nat :=
  let m := t % 2 ^ 1024 * montgomeryNPrime n % 2 ^ 1024
  let r := (t + m * n) / 2 ^ 1024
  if r < n then r else r - n

/-- `x^E mod n` with Montgomery reduction: into Montgomery form by `R^2 mod N`, the powers, and out. -/
def powMontgomery (n x : Nat) : Nat :=
  let xm := montgomeryReduce n (x * (2 ^ 2048 % n))
  montgomeryReduce n (squareMultiply (fun a b => montgomeryReduce n (a * b)) xm)

/-- `x^E mod n` by the method `MODEXP_METHOD` (43_modexp.md R102). -/
def powBy : Config.ReductionMethod → Nat → Nat → Nat
  | .montgomery, n, x => powMontgomery n x
  | .barrett, n, x => powBarrett n x

/-- The block that an engine built with the configured method computes (43_modexp.md R102). -/
def engineBlock (n : Nat) (b : List Byte) : List Byte :=
  i2osp (powBy Config.modexpMethod n (os2ip b)) 128

/-- `Exec_MODEXP` (43_modexp.md R104). -/
def modexpBody (l : Latch) (s : State) : Except Fault BodyResult :=
  s.withSource l.src.toNat 128 fun b => .ok (some (modExp Config.modN b)) none

/-- MODEXP: one public transform of one block (43_modexp.md R104). -/
def execModexp (s : State) : Host.Outcome State Fault Refusal := runCommand .modexp modexpBody s

end Sys2Proof.Machine
end

