-- ==== Sys2Proof/Machine/Padding.lean ====
section
/-! DEFINITION. The PKCS#1-v1.5-style padding formatter (42_padding.md): PAD and UNPAD. -/

namespace Sys2Proof.Machine

/-- `Pad(ch)`: `00`, the run of `02`, the separator `00`, the chunk (42_padding.md R94,
90_conflicts.md C5). -/
def padBlock (ch : List Byte) : List Byte :=
  [0x00] ++ List.replicate (126 - ch.length) 0x02 ++ [0x00] ++ ch

/-- `Unpad(b)`: the search runs over the minimal big-endian serialization and keeps everything after
its first `00` (42_padding.md R96, 90_conflicts.md C6). -/
def unpadBlock (b : List Byte) : Except ErrCode (List Byte) :=
  match (minBE (os2ip b)).dropWhile (· != 0) with
  | [] => .error .errNosep
  | _ :: rest => .ok rest

/-- `Exec_PAD` (42_padding.md R98). -/
def padBody (l : Latch) (s : State) : Except Fault BodyResult :=
  s.withSource l.src.toNat l.len.toNat fun ch => .ok (some (padBlock ch)) none

/-- `Exec_UNPAD` (42_padding.md R99). -/
def unpadBody (l : Latch) (s : State) : Except Fault BodyResult :=
  s.withSource l.src.toNat 128 fun b =>
    match unpadBlock b with
    | .error e => .fail e
    | .ok u => .ok (some u) none

/-- PAD: format one chunk into a 128-byte block (42_padding.md R98). -/
def execPad (s : State) : Host.Outcome State Fault Refusal := runCommand .pad padBody s

/-- UNPAD: strip the padding of one 128-byte block (42_padding.md R99). -/
def execUnpad (s : State) : Host.Outcome State Fault Refusal := runCommand .unpad unpadBody s

end Sys2Proof.Machine
end

