-- ==== Sys2Proof/Machine/Pipeline.lean ====
section
/-! DEFINITION. The block cipher pipeline (44_pipeline.md): ENCRYPT and DECRYPT on raw bytes. -/

namespace Sys2Proof.Machine

/-- `XorEnc(P)`, the encrypt-side XOR layer (44_pipeline.md R105). -/
def xorEnc (p : List Byte) : List Byte :=
  xorAlign (revBytes (xorAlign p Config.mask4)) Config.mask12

/-- `B(P)`, the seeded buffer (44_pipeline.md R106, 90_conflicts.md C4). -/
def seededBuffer (seed p : List Byte) : List Byte := seed ++ xorEnc p

/-- `Chunks(B)`: chunk `i` is `B[117*i .. min(117*(i+1), |B|))` (44_pipeline.md R107). -/
def chunks (b : List Byte) : List (List Byte) :=
  (List.range (ceilDiv b.length 117)).map fun i => slice b (117 * i) (min (117 * (i + 1)) b.length)

/-- The ENCRYPT output of plaintext `p` for modulus `n` and seed `seed` (44_pipeline.md R108). -/
def encryptBytes (n : Nat) (seed p : List Byte) : List Byte :=
  (chunks (seededBuffer seed p)).flatMap fun ch => modExp n (padBlock ch)

/-- `XorDec(R, K)`, the decrypt-side XOR layer (44_pipeline.md R110). -/
def xorDec (r k : List Byte) : List Byte := xorAlign (revBytes (xorAlign r k)) Config.mask4

/-- The `|C| div 128` consecutive blocks of a ciphertext (44_pipeline.md R111). -/
def blocks (c : List Byte) : List (List Byte) :=
  (List.range (c.length / 128)).map fun k => slice c (128 * k) (128 * k + 128)

/-- The stripped plaintexts of a list of blocks, concatenated; the first failing block is the one
reported (44_pipeline.md R111). -/
def accumulateBlocks (n : Nat) : List (List Byte) → Except ErrCode (List Byte)
  | [] => .ok []
  | b :: bs =>
    match unpadBlock (modExp n b) with
    | .error e => .error e
    | .ok u =>
      match accumulateBlocks n bs with
      | .error e => .error e
      | .ok rest => .ok (u ++ rest)

/-- `Acc(C)`, the accumulator of a ciphertext (44_pipeline.md R111). -/
def accumulate (n : Nat) (c : List Byte) : Except ErrCode (List Byte) := accumulateBlocks n (blocks c)

/-- The plaintext and derived key of a ciphertext for modulus `n` and KeyTable `kt`, or the error
(44_pipeline.md R112; fewer than 16 accumulator bytes is `ERR_SHORT`, decision D31). -/
def decryptBytes (n : Nat) (kt : Nat → Byte) (c : List Byte) : Except ErrCode (List Byte × Key) :=
  match accumulate n c with
  | .error e => .error e
  | .ok acc =>
    if acc.length < 16 then .error .errShort
    else
      let k := derive kt (slice acc 0 16)
      .ok (xorDec (acc.drop 16) k.toList, k)

/-- `Exec_ENCRYPT` (44_pipeline.md R108). -/
def encryptBody (l : Latch) (s : State) : Except Fault BodyResult :=
  s.withSource l.src.toNat l.len.toNat fun p =>
    .ok (some (encryptBytes Config.modN Config.encSeed p)) none

/-- `Exec_DECRYPT` (44_pipeline.md R112): KREG takes the derived key. -/
def decryptBody (l : Latch) (s : State) : Except Fault BodyResult :=
  s.withSource l.src.toNat l.len.toNat fun c =>
    match decryptBytes Config.modN Config.kt c with
    | .error e => .fail e
    | .ok (p, k) => .ok (some p) (some k)

/-- ENCRYPT: the full encrypt pipeline on raw bytes (44_pipeline.md R108). -/
def execEncrypt (s : State) : Host.Outcome State Fault Refusal := runCommand .encrypt encryptBody s

/-- DECRYPT: the full decrypt pipeline on raw bytes (44_pipeline.md R112). -/
def execDecrypt (s : State) : Host.Outcome State Fault Refusal := runCommand .decrypt decryptBody s

end Sys2Proof.Machine
end

