-- ==== Sys2Proof/Machine/Dispatch.lean ====
section
/-! DEFINITION. One arm per command: the completion step of the command in flight, decoded
(40_command.md R75, R76). -/

namespace Sys2Proof.Machine

def exec (i : Instr) (s : State) : Host.Outcome State Fault Refusal :=
  match i with
  | .nop => Sys2Proof.Machine.execNop s
  | .xor4 => Sys2Proof.Machine.execXor4 s
  | .xor12 => Sys2Proof.Machine.execXor12 s
  | .xork => Sys2Proof.Machine.execXork s
  | .rev => Sys2Proof.Machine.execRev s
  | .kderive => Sys2Proof.Machine.execKderive s
  | .pad => Sys2Proof.Machine.execPad s
  | .unpad => Sys2Proof.Machine.execUnpad s
  | .modexp => Sys2Proof.Machine.execModexp s
  | .encrypt => Sys2Proof.Machine.execEncrypt s
  | .decrypt => Sys2Proof.Machine.execDecrypt s

end Sys2Proof.Machine
end

