-- ==== Sys2Proof/Machine/Port.lean ====
section
/-! DEFINITION. The device window (20_memory.md, 10_state.md section 3): one host access, one atomic
step. -/

namespace Sys2Proof.Machine

/-- The registers of 10_state.md R18, by name. -/
inductive Reg where
  | id | version | cmd | status | ctrl | src | len | dst | outlen | dmemsz | key0 | key1 | key2
  deriving DecidableEq, Repr

/-- The register at an offset of the register region, none at a reserved offset (10_state.md R18,
R30). -/
def regAt (off : Nat) : Option Reg :=
  if off = 0x000 then some .id
  else if off = 0x004 then some .version
  else if off = 0x008 then some .cmd
  else if off = 0x00C then some .status
  else if off = 0x010 then some .ctrl
  else if off = 0x014 then some .src
  else if off = 0x018 then some .len
  else if off = 0x01C then some .dst
  else if off = 0x020 then some .outlen
  else if off = 0x024 then some .dmemsz
  else if off = 0x030 then some .key0
  else if off = 0x034 then some .key1
  else if off = 0x038 then some .key2
  else none

/-- The registers whose reads are refused while busy (10_state.md R32). -/
def Reg.readLocked : Reg → Bool
  | .src | .len | .dst | .outlen | .key0 | .key1 | .key2 => true
  | .id | .version | .cmd | .status | .ctrl | .dmemsz => false

/-- The registers whose writes are refused while busy: those and CMD (10_state.md R32). -/
def Reg.writeLocked : Reg → Bool
  | .src | .len | .dst | .outlen | .key0 | .key1 | .key2 | .cmd => true
  | .id | .version | .status | .ctrl | .dmemsz => false

/-- What a host access reaches. -/
inductive Target where
  /-- a register of R18 -/
  | register (r : Reg)
  /-- an aligned offset of the register region without a register (10_state.md R30) -/
  | reserved
  /-- the DMEM address, the access aligned and the core idle (20_memory.md R45) -/
  | dmem (a : Nat)
  /-- nothing (20_memory.md R43) -/
  | unmapped
  /-- refused (20_memory.md R47) -/
  | refused
  deriving DecidableEq, Repr

/-- The target of an access of width `w` at window offset `off`, `locked` being the registers that are
locked for its kind (20_memory.md R43 to R47, 10_state.md R30 to R32). The width is checked first (log
entry 11). -/
def target (busy : Bool) (locked : Reg → Bool) (off w : Nat) : Target :=
  if ¬(w = 1 ∨ w = 2 ∨ w = 4) then .refused
  else if off < Config.registerEnd then
    if w = 4 ∧ off % 4 = 0 then
      match regAt off with
      | some r => if busy && locked r then .refused else .register r
      | none => .reserved
    else .refused
  else if off < Config.dmemOffset then .unmapped
  else if off - Config.dmemOffset < Config.dmemSize then
    if busy then .refused
    else if (off - Config.dmemOffset) % w = 0 then .dmem (off - Config.dmemOffset)
    else .refused
  else .unmapped

/-- KEYw: the four lanes `KREG[4w..4w+4)`, byte `4w` lowest (10_state.md R29). -/
def keyWord (k : Key) (w : Nat) : Word :=
  BitVec.ofNat 32 (leValue ((List.range 4).map fun b => k.toList.getD (4 * w + b) 0))

/-- KREG with `KREG[4w..4w+4)` replaced by the lanes of `v` (10_state.md R29). -/
def setKeyWord (k : Key) (w : Nat) (v : Word) : Key :=
  Vector.ofFn fun i => if i.val / 4 = w then lane v (i.val % 4) else k[i]

/-- The value that a read of a register returns (10_state.md R19 to R29). -/
def State.regValue (s : State) : Reg → Word
  | .id => 0x50313135
  | .version => 0x00010000
  | .cmd => 0
  | .status => s.statusWord
  | .ctrl => s.ctrlWord
  | .src => s.src
  | .len => s.len
  | .dst => s.dst
  | .outlen => s.outlen
  | .dmemsz => BitVec.ofNat 32 Config.dmemSize
  | .key0 => keyWord s.kreg 0
  | .key1 => keyWord s.kreg 1
  | .key2 => keyWord s.kreg 2

/-- A write to CTRL: bit 1 is the soft reset, and then bit 0 is discarded (10_state.md R23). -/
def State.writeCtrl (s : State) (v : Word) : State :=
  if v.getLsbD 1 then s.softReset else { s with irqEn := v.getLsbD 0 }

/-- A write of `v` that reaches a register (10_state.md R19 to R29). -/
def State.writeReg (s : State) (v : Word) : Reg → State
  | .id => s
  | .version => s
  | .cmd => s.launch v
  | .status => s.writeStatus v
  | .ctrl => s.writeCtrl v
  | .src => { s with src := v }
  | .len => { s with len := v }
  | .dst => { s with dst := v }
  | .outlen => s
  | .dmemsz => s
  | .key0 => { s with kreg := setKeyWord s.kreg 0 v }
  | .key1 => { s with kreg := setKeyWord s.kreg 1 v }
  | .key2 => { s with kreg := setKeyWord s.kreg 2 v }

/-- A host read: its data goes to `rdata` (20_memory.md R45, R47; 10_state.md R30). -/
def State.hostRead (s : State) (off w : Nat) : State :=
  match target s.busy Reg.readLocked off w with
  | .register r => { s with rdata := s.regValue r }
  | .reserved => { s with rdata := 0 }
  | .dmem a => { s with rdata := BitVec.ofNat 32 (leValue (s.bytesAt a w)) }
  | .unmapped => { s with rdata := 0 }
  | .refused => { s.setAccerr with rdata := 0 }

/-- A host write (20_memory.md R45, R47; 10_state.md R30). -/
def State.hostWrite (s : State) (off w : Nat) (v : Word) : State :=
  match target s.busy Reg.writeLocked off w with
  | .register r => s.writeReg v r
  | .reserved => s
  | .dmem a => s.putBytes a (lanes v w)
  | .unmapped => s
  | .refused => s.setAccerr

/-- One host access, one atomic step of the host (20_memory.md R44). -/
def State.access (s : State) : Access → State
  | .read off w => s.hostRead off w
  | .write off w v => s.hostWrite off w v

/-- The window offset of a host physical address, none outside the window (20_memory.md R41, R55). -/
def busOffset (addr : Nat) : Option Nat :=
  if Config.base ≤ addr ∧ addr < Config.base + Config.windowSize then some (addr - Config.base) else none

end Sys2Proof.Machine
end

