-- ==== Sys2Proof/Machine/Step.lean ====
section
/-! DEFINITION. One step of the machine: the next event of the single total order of 20_memory.md R57,
or the completion of the command in flight when no event is waiting (40_command.md R75, R77). -/

namespace Sys2Proof.Machine

/-- The completion step of the latched command `w`: check 1 of 60_exceptions.md R120 decodes it; an
illegal word completes with `ERR_OPCODE` and no other effect (30_encoding.md R68, R69). -/
def completeWord (w : Word) (s : State) : Host.Outcome State Fault Refusal :=
  match decode w with
  | some i => exec i s
  | none => .next (s.failCommand .errOpcode)

/-- The engine's turn: a completion step if a command is in flight (40_command.md R75); an idle core
keeps its state (70_reset_and_hazards.md R135, 60_exceptions.md R133). -/
def engineTurn (s : State) : Host.Outcome State Fault Refusal :=
  match s.fetchWord with
  | none => .next s
  | some w => completeWord w s

/-- One step. With no event waiting the engine completes the command in flight: no command hangs
(40_command.md R77; log entry 7). -/
def step (s : State) : Host.Outcome State Fault Refusal :=
  match s.arrivals.head? with
  | none => engineTurn s.pop
  | some .engine => engineTurn s.pop
  | some (.access a) => .next (s.pop.access a)
  | some .hardReset => .next s.pop.hardReset

/-- The state in which the table word `w` is the command in flight and the next step is the engine's:
the launch of 40_command.md R73 by a host's CMD write, then the engine's turn (log entry 8). -/
def State.withFetchWord (s : State) (nbits w : Nat) : State :=
  { s.launch (tableWord nbits w) with arrivals := .engine :: s.arrivals }

end Sys2Proof.Machine
end

