-- ==== Sys2Proof/Machine/Host.lean ====
section
/-! DEFINITION. The host program notation of 30_encoding.md R71 and R72 as events, and which orders of
arrival a host program may have (20_memory.md R60). -/

namespace Sys2Proof.Machine

/-- `WR32 off, v` (30_encoding.md R71). -/
def wr32 (off : Nat) (v : Word) : Access := .write off 4 v

/-- `WR16 off, h` (30_encoding.md R71). -/
def wr16 (off : Nat) (h : BitVec 16) : Access := .write off 2 (h.setWidth 32)

/-- `WR8 off, b` (30_encoding.md R71). -/
def wr8 (off : Nat) (b : Byte) : Access := .write off 1 (b.setWidth 32)

/-- `RD32 off` (30_encoding.md R71). -/
def rd32 (off : Nat) : Access := .read off 4

/-- `RD16 off` (30_encoding.md R71). -/
def rd16 (off : Nat) : Access := .read off 2

/-- `RD8 off` (30_encoding.md R71). -/
def rd8 (off : Nat) : Access := .read off 1

/-- `WRD a, b0 b1 ...` (30_encoding.md R72). -/
def wrd (a : Nat) : List Byte → List Access
  | [] => []
  | b :: bs => wr8 (Config.dmemOffset + a) b :: wrd (a + 1) bs

/-- `RDD a, n` (30_encoding.md R72). -/
def rdd (a n : Nat) : List Access := (List.range n).map fun i => rd8 (Config.dmemOffset + a + i)

/-- `CMD op` (30_encoding.md R72). -/
def cmdAccess (i : Instr) : Access := wr32 0x008 (encode i)

/-- `ACK`: clears DONE, ERR and ACCERR (30_encoding.md R72). -/
def ack : Access := wr32 0x00C 0x0000000E

/-- `WAIT` under the schedule in which `k` reads of STATUS arrive before the completion and one after
it (30_encoding.md R72). -/
def waitEvents (k : Nat) : List Event :=
  List.replicate k (.access (rd32 0x00C)) ++ [.engine, .access (rd32 0x00C)]

/-- `RUN op, s, l, d` with the `WAIT` of `waitEvents k` (30_encoding.md R72). -/
def runEvents (i : Instr) (s l d : Word) (k : Nat) : List Event :=
  [wr32 0x014 s, wr32 0x018 l, wr32 0x01C d, cmdAccess i].map Event.access ++ waitEvents k

/-- The host accesses of an event order. -/
def accessesOf (es : List Event) : List Access :=
  es.filterMap fun
    | .access a => some a
    | .engine => none
    | .hardReset => none

/-- The event orders in which a host program's accesses may arrive: in program order when
`HOST_ORDERING` holds, and else in any order the host's memory model allows, which is at most any
permutation (20_memory.md R57, R60; log entry 4). -/
def MayArrive (program : List Access) (es : List Event) : Prop :=
  if Config.hostOrdering then accessesOf es = program else (accessesOf es).Perm program

/-- The window access for a host physical address, none outside the window (20_memory.md R41). -/
def busAccess (addr : Nat) (f : Nat → Access) : Option Access := (busOffset addr).map f

end Sys2Proof.Machine
end

