-- ==== Sys2Proof/Safety.lean ====
section
/-! DEFINITION. What counts as a good state and as a safe step, in the terms the statements use. -/

namespace Sys2Proof.Machine

/-- Every recorded DMEM byte lies in `[0, DMEM_SIZE)` (20_memory.md R42, R52). -/
def State.dmemInRange (s : State) : Prop := ∀ c ∈ s.dmem, c.1 < Config.dmemSize

/-- While a command is in flight DONE, ERR, ERRCODE and OUTLEN are what its launch set: 0
(40_command.md R73, 10_state.md R27). -/
def State.launchedClean (s : State) : Prop :=
  s.busy = true → s.done = false ∧ s.err = false ∧ s.errcode = 0 ∧ s.outlen = 0

/-- ERRCODE is 0 or a code of 60_exceptions.md R118, and ERR is never set without a code. -/
def State.errorReported (s : State) : Prop :=
  s.errcode.toNat ≤ 7 ∧ (s.err = true → s.errcode ≠ 0)

/-- After an error OUTLEN is 0, and OUTLEN never exceeds DMEM (10_state.md R27, 60_exceptions.md R122). -/
def State.outlenBounded (s : State) : Prop :=
  (s.errcode ≠ 0 → s.outlen = 0) ∧ s.outlen.toNat ≤ Config.dmemSize

/-- The draws made so far are numbered below `draws`: the MODEL's own bookkeeping (log entries 5, 6). -/
def State.drawsFresh (s : State) : Prop := s.dmemDraw < s.draws

/-- The invariant of the machine. -/
structure Inv (s : State) : Prop where
  /-- DMEM is in its canonical form -/
  wf : Memory.wf s.dmem
  inRange : s.dmemInRange
  clean : s.launchedClean
  reported : s.errorReported
  outlenOk : s.outlenBounded
  fresh : s.drawsFresh

/-- A step that answers a next state: the machine neither faults nor refuses (40_command.md R76, R77). -/
def stepAnswers (s : State) : Prop := ∃ t, step s = .next t

/-- A run of a host program has ended: its last access has been performed and no command is in flight
(70_reset_and_hazards.md R148). Engine's turns and resets may still wait. -/
def State.runEnded (s : State) : Prop := accessesOf s.arrivals = [] ∧ s.inflight = none

/-- It is the engine's turn: no event waits, or the oldest one is the engine's. -/
def State.enginesTurn (s : State) : Prop := s.arrivals = [] ∨ s.arrivals.head? = some .engine

/-- The source and destination ranges are in DMEM and do not overlap, for a command that may write `n`
bytes at `dst` (40_command.md R79). -/
def Latch.fits (l : Latch) (n : Nat) : Prop :=
  l.src.toNat + l.len.toNat ≤ Config.dmemSize ∧
    (n = 0 ∨ l.dst.toNat + n ≤ Config.dmemSize) ∧
    ¬(0 < l.len.toNat ∧ 0 < n ∧ l.src.toNat < l.dst.toNat + n ∧ l.dst.toNat < l.src.toNat + l.len.toNat)

/-- The source bytes of the command in flight, `MemRead(src, len)`. -/
def State.sourceBytes (s : State) (l : Latch) : List Byte := s.bytesAt l.src.toNat l.len.toNat

/-- Address `a` lies in `[base, base + n)`. -/
def inRange (base n a : Nat) : Prop := base ≤ a ∧ a < base + n

/-- What no completion changes: ACCERR, CTRL, SRC, LEN, DST, the port's data, the waiting events and
what unwritten DMEM bytes read as (40_command.md R75). -/
structure SameOutside (s t : State) : Prop where
  accerr : t.accerr = s.accerr
  irqEn : t.irqEn = s.irqEn
  src : t.src = s.src
  len : t.len = s.len
  dst : t.dst = s.dst
  rdata : t.rdata = s.rdata
  arrivals : t.arrivals = s.arrivals
  dmemDraw : t.dmemDraw = s.dmemDraw

/-- A completion with `Ok` that writes exactly the bytes `out` at `dst` and leaves KREG at `key`
(40_command.md R75): its whole effect and its frame. -/
structure CompletedOk (s t : State) (dst : Nat) (out : List Byte) (key : Key) : Prop where
  inflight : t.inflight = none
  done : t.done = true
  err : t.err = s.err
  errcode : t.errcode = s.errcode
  outlen : t.outlen.toNat = out.length
  kreg : t.kreg = key
  stored : ∀ a, inRange dst out.length a → t.byteAt a = out.getD (a - dst) 0
  kept : ∀ a, ¬inRange dst out.length a → t.byteAt a = s.byteAt a
  draws : t.draws = s.draws
  outside : SameOutside s t

/-- A completion with the error `e` after which the `n` bytes at `dst` are `any`
(40_command.md R75, 60_exceptions.md R122): its whole effect and its frame. -/
structure CompletedErr (s t : State) (e : ErrCode) (dst n : Nat) : Prop where
  inflight : t.inflight = none
  done : t.done = true
  err : t.err = true
  errcode : t.errcode = e.code
  outlen : t.outlen = s.outlen
  kreg : t.kreg = s.kreg
  free : ∀ a, inRange dst n a → t.byteAt a = Config.freeByte s.draws a
  kept : ∀ a, ¬inRange dst n a → t.byteAt a = s.byteAt a
  outside : SameOutside s t

/-- The offsets of the registers that are locked while busy (10_state.md R32). -/
def lockedOffsets : List Nat := [0x014, 0x018, 0x01C, 0x020, 0x030, 0x034, 0x038]

/-- The causes of refusal of an access of width `w` at `off`, for the offsets `locked`
(20_memory.md R47). -/
def refusalCause (busy : Bool) (locked : List Nat) (off w : Nat) : Prop :=
  (off < 0x100 ∧ ¬(w = 4 ∧ off % 4 = 0)) ∨
    (busy = true ∧ w = 4 ∧ off ∈ locked) ∨
    (inRange 0x01000000 Config.dmemSize off ∧ (off - 0x01000000) % w ≠ 0) ∨
    (inRange 0x01000000 Config.dmemSize off ∧ busy = true) ∨
    ¬(w = 1 ∨ w = 2 ∨ w = 4)

/-- The length is illegal for the command: check 3 of 60_exceptions.md R120 as the rule lists it. -/
def lengthIllegal (i : Instr) (len : Nat) : Prop :=
  (i = .kderive ∧ len ≠ 16) ∨ (i = .pad ∧ len > 117) ∨ (i = .unpad ∧ len ≠ 128) ∨
    (i = .modexp ∧ len ≠ 128) ∨ (i = .decrypt ∧ len % 128 ≠ 0)

end Sys2Proof.Machine
end

