-- ==== Sys2Proof/Certificates/Slice0/Obligations.lean ====
section
/-! DEFINITION. The statements for the provers, from the numbered rules of spec/. Where a statement
speaks of a free byte it holds for every value of it: `Config.freeByte` is opaque (log entries 5, 6). -/

open Sys2Proof Sys2Proof.Machine

/-! ### Encoding (30_encoding.md) -/

/-- R67, the words of a few commands, one of each sub-block. -/
def Obligations.TableWordsDecode : Prop :=
  decode 0x00000000 = some .nop ∧ decode 0x00000003 = some .xork ∧ decode 0x00000005 = some .kderive ∧
    decode 0x00000011 = some .unpad ∧ decode 0x00000020 = some .modexp ∧
    decode 0x00000031 = some .decrypt

/-- Decode and encode agree on every word: a word decodes to `i` exactly when it is `i`'s word. -/
def Obligations.DecodeExactlyEncodedWords : Prop :=
  ∀ (w : Word) (i : Instr), decode w = some i ↔ w = encode i

/-- R68, R69, R70: a word decodes exactly when RSVD is zero and OPCODE is outside the four ranges of
illegal values. -/
def Obligations.DecodeRefusesIllegalWords : Prop :=
  ∀ w : Word, (decode w).isSome = wordWellFormed w

/-! ### The step -/

/-- The next event decides which agent steps (R14, R57): an access is one atomic step (R44), the
engine's turn runs the command that the latched word decodes to, on the state without the event. -/
def Obligations.StepRunsDecodedCommand : Prop :=
  ∀ s : State,
    (∀ l i, s.enginesTurn → s.inflight = some l → decode l.word = some i →
      i.wellFormed = true → step s = exec i s.pop) ∧
    (s.enginesTurn → s.inflight = none → step s = .next s.pop) ∧
    (∀ a, s.arrivals.head? = some (.access a) → step s = .next (s.pop.access a)) ∧
    (s.arrivals.head? = some .hardReset → step s = .next s.pop.hardReset)

/-- R76, R77: no step faults or is refused: every MemRead and MemWrite lies in DMEM, no command hangs. -/
def Obligations.StepAlwaysAnswers : Prop := ∀ s : State, stepAnswers s

/-- Every step keeps the invariant `Inv`: DMEM canonical and in range, BUSY with clean flags, error
codes at most 7, ERR with a code, OUTLEN bounded and 0 after an error. -/
def Obligations.StepKeepsInvariant : Prop := ∀ s t : State, Inv s → step s = .next t → Inv t

/-- The state after reset meets the invariant. -/
def Obligations.ResetMeetsInvariant : Prop := Inv State.reset

/-- R77: every launched command is gone after finitely many steps, at most one more than the events
that wait. R148: after so many steps, from any state, the run has ended. -/
def Obligations.LaunchedCommandEnds : Prop :=
  (∀ s : State, s.busy = true →
    ∃ k t, k ≤ s.arrivals.length + 1 ∧ Host.Core.run core k s = .next t ∧
      (t : State).busy = false) ∧
  ∀ s : State, ∃ k t, k ≤ s.arrivals.length + 1 ∧ Host.Core.run core k s = .next t ∧
    State.runEnded t

/-- R134: the registers as a host reads them after a hard reset, KREG, no command in flight, irq 0, and
every DMEM byte a free byte (log entry 5). -/
def Obligations.ResetState : Prop :=
  let rd := fun off => (State.reset.access (.read off 4)).rdata
  rd 0x000 = 0x50313135 ∧ rd 0x004 = 0x00010000 ∧ rd 0x024 = BitVec.ofNat 32 Config.dmemSize ∧
    (∀ off ∈ [0x008, 0x00C, 0x010, 0x014, 0x018, 0x01C, 0x020, 0x030, 0x034, 0x038], rd off = 0) ∧
    State.reset.busy = false ∧ State.reset.done = false ∧ State.reset.err = false ∧
    State.reset.accerr = false ∧ State.reset.errcode = 0 ∧ State.reset.irqEn = false ∧
    State.reset.kreg = Vector.replicate 12 0x00 ∧ State.reset.inflight = none ∧
    State.reset.irq = false ∧ ∃ draw, ∀ a, State.reset.byteAt a = Config.freeByte draw a

/-- R134, the platform's reset input in any state: registers, KREG, `inflight` and irq as after reset,
every DMEM byte a fresh free byte. -/
def Obligations.HardResetFromAnyState : Prop :=
  ∀ s t : State, s.arrivals.head? = some .hardReset → step s = .next t →
    t.busy = false ∧ t.done = false ∧ t.err = false ∧ t.accerr = false ∧ t.errcode = 0 ∧
      t.irqEn = false ∧ t.src = 0 ∧ t.len = 0 ∧ t.dst = 0 ∧ t.outlen = 0 ∧
      t.kreg = Vector.replicate 12 0x00 ∧ t.inflight = none ∧ t.irq = false ∧
      (∀ a, t.byteAt a = Config.freeByte s.draws a) ∧ s.draws < t.draws

/-- R137: the parameters this model is built from are admissible. -/
def Obligations.ConfigurationAdmissible : Prop := Config.params.admissible = true

/-! ### Commands: their results and frames -/

/-- NOP completes whatever its operands are and changes nothing but the completion flags. -/
def Obligations.NopResult : Prop :=
  ∀ (s : State) (l : Latch), s.inflight = some l →
    ∃ t, exec .nop s = .next t ∧ CompletedOk s t 0 [] s.kreg

/-- XOR4 and XOR12 write the aligned XOR of the source with their mask; the source bytes are the
`len` DMEM bytes from `src` on (R52). -/
def Obligations.MaskCommandsResult : Prop :=
  (∀ (s : State) (l : Latch), (s.sourceBytes l).length = l.len.toNat ∧
    ∀ i < l.len.toNat, (s.sourceBytes l).getD i 0 = s.byteAt (l.src.toNat + i)) ∧
  ∀ (s : State) (l : Latch), s.inflight = some l → l.fits l.len.toNat →
    (∃ t, exec .xor4 s = .next t ∧ CompletedOk s t l.dst.toNat
      (xorAlign (s.sourceBytes l) [0x8d, 0xa5, 0xa5, 0x8d]) s.kreg) ∧
    (∃ t, exec .xor12 s = .next t ∧ CompletedOk s t l.dst.toNat
      (xorAlign (s.sourceBytes l)
        [0x78, 0x06, 0xad, 0x4c, 0x33, 0x86, 0x5d, 0x18, 0x4c, 0x01, 0x3f, 0x46]) s.kreg)

/-- XORK writes the aligned XOR of the source with the 12 bytes of KREG. -/
def Obligations.XorkResult : Prop :=
  ∀ (s : State) (l : Latch), s.inflight = some l → l.fits l.len.toNat →
    ∃ t, exec .xork s = .next t ∧
      CompletedOk s t l.dst.toNat (xorAlign (s.sourceBytes l) s.kreg.toList) s.kreg

/-- REV writes the source bytes in reverse order. -/
def Obligations.RevResult : Prop :=
  ∀ (s : State) (l : Latch), s.inflight = some l → l.fits l.len.toNat →
    ∃ t, exec .rev s = .next t ∧
      CompletedOk s t l.dst.toNat (s.sourceBytes l).reverse s.kreg

/-- KDERIVE writes no DMEM byte and sets KREG, byte by byte as R86 says; `dst` is not checked. -/
def Obligations.KderiveResult : Prop :=
  ∀ (s : State) (l : Latch), s.inflight = some l → l.len.toNat = 16 →
    l.src.toNat + 16 ≤ Config.dmemSize →
    ∃ t, exec .kderive s = .next t ∧ CompletedOk s t 0 [] t.kreg ∧
      ∀ i : Fin 12, t.kreg[i] = Config.kt (132 - 12 * i) ^^^
        (s.byteAt (l.src.toNat + i) + Config.kt (12 * i))

/-- PAD writes the 128-byte block of a chunk of at most 117 bytes. -/
def Obligations.PadResult : Prop :=
  ∀ (s : State) (l : Latch), s.inflight = some l → l.len.toNat ≤ 117 → l.fits 128 →
    ∃ t, exec .pad s = .next t ∧ CompletedOk s t l.dst.toNat
      ([0x00] ++ List.replicate (126 - l.len.toNat) 0x02 ++ [0x00] ++ s.sourceBytes l) s.kreg

/-- UNPAD writes what follows the first zero byte after the leading zeros; without one it completes
with ERR_NOSEP. -/
def Obligations.UnpadResult : Prop :=
  ∀ (s : State) (l : Latch), s.inflight = some l → l.len.toNat = 128 → l.fits 126 →
    (∀ z body rest, s.sourceBytes l = List.replicate z 0x00 ++ body ++ [0x00] ++ rest →
      body ≠ [] → (∀ b ∈ body, b ≠ 0x00) →
      ∃ t, exec .unpad s = .next t ∧ CompletedOk s t l.dst.toNat rest s.kreg) ∧
    (∀ z body, s.sourceBytes l = List.replicate z 0x00 ++ body → (∀ b ∈ body, b ≠ 0x00) →
      ∃ t, exec .unpad s = .next t ∧ CompletedErr s t .errNosep l.dst.toNat 126)

/-- MODEXP writes the 128-byte big-endian form of `x^0x10001 mod N`. -/
def Obligations.ModexpResult : Prop :=
  ∀ (s : State) (l : Latch), s.inflight = some l → l.len.toNat = 128 → l.fits 128 →
    ∃ t, exec .modexp s = .next t ∧ CompletedOk s t l.dst.toNat
      (i2osp (os2ip (s.sourceBytes l) ^ 0x10001 % Config.modN) 128) s.kreg

/-- ENCRYPT writes the encrypted blocks of the plaintext. -/
def Obligations.EncryptResult : Prop :=
  ∀ (s : State) (l : Latch), s.inflight = some l →
    l.fits (128 * ceilDiv (16 + l.len.toNat) 117) →
    ∃ t, exec .encrypt s = .next t ∧ CompletedOk s t l.dst.toNat
      (encryptBytes Config.modN Config.encSeed (s.sourceBytes l)) s.kreg ∧
      t.outlen.toNat = 128 * ceilDiv (16 + l.len.toNat) 117

/-- DECRYPT writes the plaintext and sets KREG to the derived key when every block strips and the
accumulator has at least 16 bytes; a block without a separator and a short accumulator are its errors. -/
def Obligations.DecryptResult : Prop :=
  ∀ (s : State) (l : Latch), s.inflight = some l → l.len.toNat % 128 = 0 →
    l.fits (126 * (l.len.toNat / 128) - 16) →
    ∃ t, exec .decrypt s = .next t ∧
      match accumulate Config.modN (s.sourceBytes l) with
      | .error _ => CompletedErr s t .errNosep l.dst.toNat (126 * (l.len.toNat / 128) - 16)
      | .ok acc =>
        if acc.length < 16 then
          CompletedErr s t .errShort l.dst.toNat (126 * (l.len.toNat / 128) - 16)
        else
          CompletedOk s t l.dst.toNat
            (xorDec (acc.drop 16) (derive Config.kt (acc.take 16)).toList)
            (derive Config.kt (acc.take 16))

/-! ### Errors (60_exceptions.md) -/

/-- An illegal length is reported before any range, and nothing else happens. -/
def Obligations.IllegalLengthCompletes : Prop :=
  ∀ (s : State) (l : Latch) (i : Instr), s.inflight = some l → lengthIllegal i l.len.toNat →
    ∃ t, exec i s = .next t ∧
      CompletedErr s t (if i = .decrypt then .errNotBlocks else .errLen) 0 0

/-- A source or destination range outside DMEM, computed without wrapping, completes with ERR_RANGE. -/
def Obligations.RangeErrorCompletes : Prop :=
  ∀ (s : State) (l : Latch) (i : Instr), s.inflight = some l → i ≠ .nop →
    ¬lengthIllegal i l.len.toNat →
    (Config.dmemSize < l.src.toNat + l.len.toNat ∨
      (outMax i l.len.toNat ≠ 0 ∧ Config.dmemSize < l.dst.toNat + outMax i l.len.toNat)) →
    ∃ t, exec i s = .next t ∧ CompletedErr s t .errRange 0 0

/-- Overlapping ranges inside DMEM complete with ERR_OVERLAP; no command works in place. -/
def Obligations.OverlapErrorCompletes : Prop :=
  ∀ (s : State) (l : Latch) (i : Instr), s.inflight = some l → ¬lengthIllegal i l.len.toNat →
    l.src.toNat + l.len.toNat ≤ Config.dmemSize →
    l.dst.toNat + outMax i l.len.toNat ≤ Config.dmemSize →
    (∃ a, inRange l.src.toNat l.len.toNat a ∧ inRange l.dst.toNat (outMax i l.len.toNat) a) →
    ∃ t, exec i s = .next t ∧ CompletedErr s t .errOverlap 0 0

/-- R68, R69: an illegal OPCODE or a nonzero RSVD completes with ERR_OPCODE and no other effect. -/
def Obligations.IllegalWordCompletes : Prop :=
  ∀ (s : State) (l : Latch), s.enginesTurn → s.inflight = some l →
    (l.word.extractLsb' 8 24 ≠ 0 ∨
      (let op := (l.word.extractLsb' 0 8).toNat
       (0x06 ≤ op ∧ op ≤ 0x0F) ∨ (0x12 ≤ op ∧ op ≤ 0x1F) ∨ (0x21 ≤ op ∧ op ≤ 0x2F) ∨
         (0x32 ≤ op ∧ op ≤ 0xFF))) →
    ∃ t, step s = .next t ∧ CompletedErr s.pop t .errOpcode 0 0

/-- R120: which code a completion reports, the checks in their order; codes 6 and 7 only from the
body, 6 only from UNPAD and DECRYPT, 7 only from DECRYPT. -/
def Obligations.ErrorPriority : Prop :=
  ∀ (s t : State) (l : Latch), s.inflight = some l → s.err = false → s.errcode = 0 →
    engineTurn s = .next t →
    (wordWellFormed l.word = false → t.errcode = 0x01) ∧
    (∀ i, l.word = encode i →
      (i = .nop → t.errcode = 0x00) ∧
      (i ≠ .nop →
        (lengthIllegal i l.len.toNat →
          t.errcode = if i = .decrypt then 0x03 else 0x02) ∧
        (¬lengthIllegal i l.len.toNat →
          (¬(l.src.toNat + l.len.toNat ≤ Config.dmemSize ∧
              (outMax i l.len.toNat = 0 ∨
                l.dst.toNat + outMax i l.len.toNat ≤ Config.dmemSize)) → t.errcode = 0x04) ∧
          ((l.src.toNat + l.len.toNat ≤ Config.dmemSize ∧
              (outMax i l.len.toNat = 0 ∨
                l.dst.toNat + outMax i l.len.toNat ≤ Config.dmemSize)) →
            (¬l.fits (outMax i l.len.toNat) → t.errcode = 0x05) ∧
            (l.fits (outMax i l.len.toNat) →
              t.errcode = 0x00 ∨ (t.errcode = 0x06 ∧ (i = .unpad ∨ i = .decrypt)) ∨
                (t.errcode = 0x07 ∧ i = .decrypt))))))

/-- R122: what a completion with an error changes. -/
def Obligations.ErrorEffects : Prop :=
  ∀ (s t : State) (l : Latch), s.inflight = some l → s.err = false → s.outlen = 0 →
    engineTurn s = .next t → t.err = true →
    t.outlen = 0 ∧ t.kreg = s.kreg ∧ ∃ e : ErrCode, t.errcode = e.code ∧
      (e ≠ .errNosep → e ≠ .errShort → ∀ a, t.byteAt a = s.byteAt a) ∧
      (e = .errNosep ∨ e = .errShort →
        ∃ i, decode l.word = some i ∧
          CompletedErr s t e l.dst.toNat (outMax i l.len.toNat))

/-! ### Whole-machine rules -/

/-- R75: every completion clears `inflight` and sets DONE, and raises irq when it is enabled. -/
def Obligations.EveryCompletionSetsDone : Prop :=
  ∀ (s t : State), s.busy = true → engineTurn s = .next t →
    t.inflight = none ∧ t.busy = false ∧ t.done = true ∧ t.irq = s.irqEn

/-- R66, R78: the table of OUTMAX; whatever a command ends in, DMEM changes only in
`[dst, dst + OUTMAX)`; a success reports at most OUTMAX bytes, and exactly OUTMAX for every command but
UNPAD and DECRYPT. -/
def Obligations.CommandsWriteWithinOutmax : Prop :=
  (∀ len, outMax .nop len = 0 ∧ outMax .kderive len = 0 ∧
    outMax .xor4 len = len ∧ outMax .xor12 len = len ∧ outMax .xork len = len ∧ outMax .rev len = len ∧
    outMax .pad len = 128 ∧ outMax .modexp len = 128 ∧ outMax .unpad len = 126 ∧
    outMax .encrypt len = 128 * ((16 + len + 116) / 117) ∧
    outMax .decrypt len = max 0 (126 * (len / 128) - 16)) ∧
  ∀ (i : Instr) (s t : State) (l : Latch), s.inflight = some l → exec i s = .next t →
    (∀ a, ¬inRange l.dst.toNat (outMax i l.len.toNat) a → t.byteAt a = s.byteAt a) ∧
    (s.err = false → t.err = false →
      t.outlen.toNat ≤ outMax i l.len.toNat ∧
        (i ≠ .unpad → i ≠ .decrypt → t.outlen.toNat = outMax i l.len.toNat))

/-- R39: the engine reads the latched operands only: other values in SRC, LEN and DST change nothing. -/
def Obligations.EngineReadsLatchedOperands : Prop :=
  ∀ (i : Instr) (s t : State) (a b c : Word), exec i s = .next t →
    exec i { s with src := a, len := b, dst := c } = .next { t with src := a, len := b, dst := c }

/-- R16, R29: KREG changes only by KDERIVE, DECRYPT, a host write to KEY0 to KEY2 while idle, or a
reset. -/
def Obligations.KregWriters : Prop :=
  ∀ s t : State, step s = .next t → t.kreg ≠ s.kreg →
    (s.enginesTurn ∧ ∃ l i, s.inflight = some l ∧ decode l.word = some i ∧
      (i = .kderive ∨ i = .decrypt)) ∨
    (s.busy = false ∧ ∃ off v, s.arrivals.head? = some (.access (.write off 4 v)) ∧
      off ∈ [0x030, 0x034, 0x038]) ∨
    (∃ v : Word, s.arrivals.head? = some (.access (.write 0x010 4 v)) ∧ v.getLsbD 1 = true) ∨
    s.arrivals.head? = some .hardReset

/-- R58, R123: while a command is in flight no host access that leaves it in flight changes DMEM, KREG
or the latched record. -/
def Obligations.CommandDataStableWhileBusy : Prop :=
  ∀ (s : State) (a : Access), s.busy = true → (s.access a).busy = true →
    (s.access a).inflight = s.inflight ∧ (s.access a).kreg = s.kreg ∧
      ∀ b, (s.access a).byteAt b = s.byteAt b

/-! ### The window (10_state.md, 20_memory.md, 40_command.md) -/

/-- R73: a CMD write while idle launches, whatever its value, and changes nothing else. -/
def Obligations.LaunchEffect : Prop :=
  ∀ (s : State) (w : Word), s.busy = false →
    let t := s.access (.write 0x008 4 w)
    t = { s with
      inflight := some { word := w, src := s.src, len := s.len, dst := s.dst }
      done := false, err := false, errcode := 0, outlen := 0 } ∧
    t.busy = true ∧ t.irq = false

/-- R74: a CMD write while busy sets ACCERR and changes nothing else. -/
def Obligations.BusyLaunchRefused : Prop :=
  ∀ (s : State) (w : Word), s.busy = true →
    s.access (.write 0x008 4 w) = { s with accerr := true }

/-- R32: the locked registers while busy, and the ones that are not locked. -/
def Obligations.LockedWhileBusy : Prop :=
  ∀ (s : State) (off : Nat) (v : Word), s.busy = true → off < 0x100 → off % 4 = 0 →
    (off ∈ lockedOffsets →
      s.access (.read off 4) = { s with accerr := true, rdata := 0 } ∧
        s.access (.write off 4 v) = { s with accerr := true }) ∧
    (off = 0x008 → s.access (.write off 4 v) = { s with accerr := true }) ∧
    (off ∉ lockedOffsets →
      (s.access (.read off 4)).accerr = s.accerr ∧
        (off ≠ 0x008 → (s.access (.write off 4 v)).accerr = true → s.accerr = true))

/-- R47: the effects of a refused access and the causes of refusal, which are all (log entry 11 for
the width). R54: a read that is not refused changes nothing but the data returned. -/
def Obligations.RefusalCausesAndEffects : Prop :=
  ∀ (s : State) (off w : Nat) (v : Word),
    (refusalCause s.busy lockedOffsets off w →
      s.access (.read off w) = { s with accerr := true, rdata := 0 }) ∧
    (¬refusalCause s.busy lockedOffsets off w →
      s.access (.read off w) = { s with rdata := (s.access (.read off w)).rdata }) ∧
    (refusalCause s.busy (0x008 :: lockedOffsets) off w →
      s.access (.write off w v) = { s with accerr := true }) ∧
    (¬refusalCause s.busy (0x008 :: lockedOffsets) off w →
      (s.access (.write off w v)).accerr = true → s.accerr = true)

/-- R45: aligned DMEM accesses while idle, little-endian lanes; the unmapped, misaligned and busy
cases. -/
def Obligations.DmemAccess : Prop :=
  ∀ (s : State) (a w : Nat) (v : Word), (w = 1 ∨ w = 2 ∨ w = 4) →
    (a % w = 0 → a < Config.dmemSize → a + w ≤ Config.dmemSize) ∧
    (a % w = 0 → a + w ≤ Config.dmemSize → s.busy = false →
      (let t := s.access (.read (0x01000000 + a) w)
       t = { s with rdata := t.rdata } ∧
         t.rdata.toNat = ∑ i ∈ Finset.range w, (s.byteAt (a + i)).toNat * 256 ^ i) ∧
      (let t := s.access (.write (0x01000000 + a) w v)
       t = { s with dmem := t.dmem } ∧
         (∀ i < w, t.byteAt (a + i) = v.extractLsb' (8 * i) 8) ∧
         ∀ b, ¬inRange a w b → t.byteAt b = s.byteAt b)) ∧
    (Config.dmemSize ≤ a →
      s.access (.read (0x01000000 + a) w) = { s with rdata := 0 } ∧
        s.access (.write (0x01000000 + a) w v) = s) ∧
    (a < Config.dmemSize → (a % w ≠ 0 ∨ s.busy = true) →
      s.access (.read (0x01000000 + a) w) = { s with accerr := true, rdata := 0 } ∧
        s.access (.write (0x01000000 + a) w v) = { s with accerr := true })

/-- R30, R43: reserved aligned offsets and unmapped offsets read 0, ignore writes and set nothing. -/
def Obligations.ReservedAndUnmappedSilent : Prop :=
  ∀ (s : State) (off w : Nat) (v : Word), (w = 1 ∨ w = 2 ∨ w = 4) →
    ((off < 0x100 ∧ w = 4 ∧ off % 4 = 0 ∧
        off ∉ [0x000, 0x004, 0x008, 0x00C, 0x010, 0x014, 0x018, 0x01C, 0x020, 0x024, 0x030, 0x034,
          0x038]) ∨
      (0x100 ≤ off ∧ off ≤ 0x00FFFFFF) ∨ 0x01000000 + Config.dmemSize ≤ off) →
    s.access (.read off w) = { s with rdata := 0 } ∧ s.access (.write off w v) = s

/-- R19, R20, R28: ID, VERSION and DMEMSZ read their constants in every state and ignore writes. -/
def Obligations.ConstantRegisters : Prop :=
  ∀ (s : State) (off : Nat) (c v : Word),
    ((off = 0x000 ∧ c = 0x50313135) ∨ (off = 0x004 ∧ c = 0x00010000) ∨
      (off = 0x024 ∧ c.toNat = Config.dmemSize)) →
    s.access (.read off 4) = { s with rdata := c } ∧ s.access (.write off 4 v) = s

/-- R24, R25, R26: SRC, LEN and DST take every value while idle and read it back. R27: OUTLEN is read
and never written by the host. R21: CMD reads 0 in every state. -/
def Obligations.OperandRegistersReadBack : Prop :=
  (∀ (s : State) (v : Word), s.busy = false →
    s.access (.write 0x014 4 v) = { s with src := v } ∧
    s.access (.write 0x018 4 v) = { s with len := v } ∧
    s.access (.write 0x01C 4 v) = { s with dst := v } ∧
    (∀ off ∈ [0x014, 0x018, 0x01C],
      ((s.access (.write off 4 v)).access (.read off 4)).rdata = v) ∧
    s.access (.read 0x014 4) = { s with rdata := s.src } ∧
    s.access (.read 0x018 4) = { s with rdata := s.len } ∧
    s.access (.read 0x01C 4) = { s with rdata := s.dst } ∧
    s.access (.read 0x020 4) = { s with rdata := s.outlen } ∧
    s.access (.write 0x020 4 v) = s) ∧
  ∀ s : State, s.access (.read 0x008 4) = { s with rdata := 0 }

/-- KEYw is four bytes of KREG, lowest lane first; a write replaces exactly those four. -/
def Obligations.KeyRegisterLanes : Prop :=
  ∀ (s : State) (w : Fin 3) (v : Word), s.busy = false →
    (∀ b : Fin 4,
      (s.access (.read (0x030 + 4 * w) 4)).rdata.extractLsb' (8 * b) 8 =
        s.kreg.toList.getD (4 * w + b) 0) ∧
    (let t := s.access (.write (0x030 + 4 * w) 4 v)
     t = { s with kreg := t.kreg } ∧
       ∀ i < 12, t.kreg.toList.getD i 0 =
         if i / 4 = w then v.extractLsb' (8 * (i % 4)) 8 else s.kreg.toList.getD i 0)

/-- STATUS as a host reads and writes it, and CTRL.IRQ_EN: the bits of a read, the RW1C clears, DONE
not cleared by masking the interrupt. -/
def Obligations.StatusAndCtrlFields : Prop :=
  ∀ (s : State) (v : Word),
    (∀ i < 32, (s.access (.read 0x00C 4)).rdata.getLsbD i =
      if i = 0 then s.busy else if i = 1 then s.done else if i = 2 then s.err
      else if i = 3 then s.accerr else if 8 ≤ i ∧ i < 16 then s.errcode.getLsbD (i - 8)
      else false) ∧
    s.access (.write 0x00C 4 v) = { s with
      done := s.done && !v.getLsbD 1
      err := s.err && !v.getLsbD 2
      accerr := s.accerr && !v.getLsbD 3 } ∧
    (∀ i < 32, (s.access (.read 0x010 4)).rdata.getLsbD i = (i = 0 && s.irqEn)) ∧
    (v.getLsbD 1 = false → s.access (.write 0x010 4 v) = { s with irqEn := v.getLsbD 0 })

/-- R136: the soft reset, busy or not. -/
def Obligations.SoftReset : Prop :=
  ∀ (s : State) (v : Word), v.getLsbD 1 = true →
    let t := s.access (.write 0x010 4 v)
    (t.done = false ∧ t.err = false ∧ t.accerr = false ∧ t.errcode = 0 ∧ t.irqEn = false ∧
      t.src = 0 ∧ t.len = 0 ∧ t.dst = 0 ∧ t.outlen = 0 ∧ t.kreg = Vector.replicate 12 0x00 ∧
      t.inflight = none) ∧
    (s.inflight = none → ∀ a, t.byteAt a = s.byteAt a) ∧
    (∀ l, s.inflight = some l → ∀ a,
      (¬(∃ i, decode l.word = some i ∧ checkOperands i l = none ∧
          inRange l.dst.toNat (outMax i l.len.toNat) a) → t.byteAt a = s.byteAt a) ∧
      ((∃ i, decode l.word = some i ∧ checkOperands i l = none ∧
          inRange l.dst.toNat (outMax i l.len.toNat) a) → t.byteAt a = Config.freeByte s.draws a))

/-! ### Keystream functions (41_keystream.md) -/

/-- R81, R82, R83: every byte of the aligned XOR, for keys of 4 and 12 bytes. -/
def Obligations.KeystreamPositions : Prop :=
  ∀ (s k : List Byte), (k.length = 4 ∨ k.length = 12) →
    (xorAlign s k).length = s.length ∧
      ∀ j < s.length, (xorAlign s k).getD j 0 = s.getD j 0 ^^^
        (if j < s.length % 4 then k.getD j 0 else k.getD ((j - s.length % 4) % k.length) 0)

/-- R84: length, self-inverse, empty string, and the alignment is of the whole buffer. -/
def Obligations.XorAlignInvolution : Prop :=
  (∀ (s k : List Byte), (k.length = 4 ∨ k.length = 12) →
    (xorAlign s k).length = s.length ∧ xorAlign (xorAlign s k) k = s ∧ xorAlign [] k = []) ∧
  ∃ s t k : List Byte, (k.length = 4 ∨ k.length = 12) ∧
    xorAlign (s ++ t) k ≠ xorAlign s k ++ xorAlign t k

/-- R85: reversal. -/
def Obligations.RevInvolution : Prop :=
  ∀ s : List Byte, revBytes (revBytes s) = s ∧ (revBytes s).length = s.length ∧
    ∀ j < s.length, (revBytes s).getD j 0 = s.getD (s.length - 1 - j) 0

/-- R86, R87: the derived key, and that only the twelve table entries `KT[12*i]` and the head bytes 0
to 11 matter. -/
def Obligations.DeriveReadsTwelveEntries : Prop :=
  (∀ (kt : Nat → Byte) (head : List Byte) (i : Fin 12),
    (derive kt head)[i] = kt (132 - 12 * i) ^^^ (head.getD i 0 + kt (12 * i))) ∧
  ∀ (kt kt' : Nat → Byte) (head head' : List Byte),
    (∀ i < 12, kt (12 * i) = kt' (12 * i)) → (∀ i < 12, head.getD i 0 = head'.getD i 0) →
    derive kt head = derive kt' head'

/-- R88: the zero head gives a palindrome, and every key has exactly one head on bytes 0 to 11. The
rule's general sentence, that every symmetric head gives a palindrome, does not follow from R86: some
KeyTable and symmetric head break it (log entry 14). -/
def Obligations.DerivePalindromeAndInverse : Prop :=
  (∀ kt : Nat → Byte,
    (derive kt (List.replicate 16 0x00)).toList.reverse =
      (derive kt (List.replicate 16 0x00)).toList ∧
    ∀ (target : Key) (head : List Byte), head.length = 16 →
      (derive kt head = target ↔
        ∀ i : Fin 12, head.getD i 0 = (target[i] ^^^ kt (132 - 12 * i)) - kt (12 * i))) ∧
  ∃ (kt : Nat → Byte) (head : List Byte), head.length = 16 ∧
    (∀ i < 12, head.getD i 0 = head.getD (11 - i) 0) ∧
    (derive kt head).toList.reverse ≠ (derive kt head).toList

/-! ### Padding (42_padding.md) -/

/-- R94, R95: the layout of a padded block and that it is a residue modulo every admissible N. -/
def Obligations.PadLayout : Prop :=
  ∀ ch : List Byte, ch.length ≤ 117 →
    (padBlock ch).length = 128 ∧ (padBlock ch).getD 0 0xff = 0x00 ∧
      (∀ j, 1 ≤ j → j ≤ 126 - ch.length → (padBlock ch).getD j 0 = 0x02) ∧
      (padBlock ch).getD (127 - ch.length) 0xff = 0x00 ∧
      (padBlock ch).drop (128 - ch.length) = ch ∧
      9 ≤ 126 - ch.length ∧ (padBlock ch).getD 1 0 = 0x02 ∧
      2 * 256 ^ 126 ≤ os2ip (padBlock ch) ∧ os2ip (padBlock ch) < 256 ^ 127 ∧
      256 ^ 127 = 2 ^ 1016 ∧ ∀ n, 2 ^ 1023 ≤ n → os2ip (padBlock ch) < n

/-- R97: stripping inverts padding, and an all-zero block has no separator. -/
def Obligations.UnpadInvertsPad : Prop :=
  (∀ ch : List Byte, ch.length ≤ 117 → unpadBlock (padBlock ch) = .ok ch) ∧
    unpadBlock (List.replicate 128 0x00) = .error .errNosep

/-- R96: what a block of 128 bytes strips to, in terms of its bytes, and never more than 126 bytes. -/
def Obligations.UnpadSearch : Prop :=
  ∀ b : List Byte, b.length = 128 →
    (∀ z body rest, b = List.replicate z 0x00 ++ body ++ [0x00] ++ rest → body ≠ [] →
      (∀ x ∈ body, x ≠ 0x00) → unpadBlock b = .ok rest) ∧
    (∀ z body, b = List.replicate z 0x00 ++ body → (∀ x ∈ body, x ≠ 0x00) →
      unpadBlock b = .error .errNosep) ∧
    ∀ u, unpadBlock b = .ok u → u.length ≤ 126

/-! ### The modular exponent engine (43_modexp.md) -/

/-- The fixed points of the transform, its bound, and that a block at or above N is reduced first. -/
def Obligations.ModExpFixedPoints : Prop :=
  ∀ n : Nat, 2 ^ 1023 ≤ n → n < 2 ^ 1024 → n % 2 = 1 →
    modExp n (i2osp 0 128) = i2osp 0 128 ∧ modExp n (i2osp 1 128) = i2osp 1 128 ∧
      modExp n (i2osp (n - 1) 128) = i2osp (n - 1) 128 ∧ modExp n (i2osp n 128) = i2osp 0 128 ∧
      ∀ b : List Byte, b.length = 128 →
        os2ip (modExp n b) < n ∧ modExp n b = i2osp ((os2ip b % n) ^ 0x10001 % n) 128 ∧
          modExp n (modExp n b) = i2osp (os2ip b ^ (0x10001 * 0x10001) % n) 128

/-- R102: the Montgomery engine and the Barrett engine compute the exact transform of every block for
every admissible N: the method is not observable. -/
def Obligations.ReductionMethodsExact : Prop :=
  (∀ (m : Config.ReductionMethod) (n x : Nat), 2 ^ 1023 ≤ n → n < 2 ^ 1024 → n % 2 = 1 →
    x < 2 ^ 1024 → powBy m n x = x ^ 0x10001 % n) ∧
  ∀ b : List Byte, b.length = 128 → engineBlock Config.modN b = modExp Config.modN b

/-! ### The pipeline (44_pipeline.md) -/

/-- R107: the chunks are `ceil(|B| / 117)` pieces that join to the buffer, all of 117 bytes but the
last, which has 1 to 117. -/
def Obligations.ChunksPartition : Prop :=
  ∀ b : List Byte, 1 ≤ b.length →
    (chunks b).flatten = b ∧ (chunks b).length = ceilDiv b.length 117 ∧
      (∀ i, i + 1 < (chunks b).length → ((chunks b).getD i []).length = 117) ∧
      ((chunks b).getD ((chunks b).length - 1) []).length =
        b.length - 117 * ((chunks b).length - 1) ∧
      1 ≤ b.length - 117 * ((chunks b).length - 1) ∧
      b.length - 117 * ((chunks b).length - 1) ≤ 117

/-- R109, with the XOR layer of R105 and the buffer of R106 written out: the length of an ENCRYPT
output, and each 128-byte block is the transform of its own padded chunk. -/
def Obligations.EncryptBlocks : Prop :=
  ∀ (n : Nat) (seed p : List Byte), seed.length = 16 →
    (encryptBytes n seed p).length % 128 = 0 ∧
      (encryptBytes n seed p).length = 128 * ceilDiv (16 + p.length) 117 ∧
      128 ≤ (encryptBytes n seed p).length ∧
      ∀ i < ceilDiv (16 + p.length) 117,
        slice (encryptBytes n seed p) (128 * i) (128 * i + 128) =
          modExp n (padBlock ((chunks (seed ++
            xorAlign (revBytes (xorAlign p [0x8d, 0xa5, 0xa5, 0x8d]))
              [0x78, 0x06, 0xad, 0x4c, 0x33, 0x86, 0x5d, 0x18, 0x4c, 0x01, 0x3f, 0x46])).getD i []))

/-- R110: the decrypt-side XOR layer, and that it inverts the encrypt side's when both use the same
key. -/
def Obligations.XorDecInverts : Prop :=
  (∀ r k : List Byte, xorDec r k =
    xorAlign (revBytes (xorAlign r k)) [0x8d, 0xa5, 0xa5, 0x8d]) ∧
  ∀ (p k : List Byte), (k.length = 4 ∨ k.length = 12) →
    xorDec (xorAlign (revBytes (xorAlign p [0x8d, 0xa5, 0xa5, 0x8d])) k) k = p

/-- R111: the accumulator is the concatenation of the stripped blocks, in order, empty for no block; a
block that does not strip, with every earlier one stripping, is the one reported, and its error is
`ERR_NOSEP`. -/
def Obligations.AccumulatorOfBlocks : Prop :=
  ∀ (n : Nat) (c : List Byte),
    let block := fun k => unpadBlock (modExp n (slice c (128 * k) (128 * k + 128)))
    (∀ us : List (List Byte), us.length = c.length / 128 →
      (∀ k < us.length, block k = .ok (us.getD k [])) → accumulate n c = .ok us.flatten) ∧
    (∀ k e, k < c.length / 128 → (∀ j < k, ∃ u, block j = .ok u) → block k = .error e →
      e = .errNosep ∧ accumulate n c = .error e)

/-- R113(b): a ciphertext made by the party that holds a private exponent decrypts to its plaintext
and its head's key, for every head and every chunking. -/
def Obligations.DecryptOfPrivateCiphertext : Prop :=
  ∀ (n d : Nat) (kt : Nat → Byte) (head p : List Byte) (pieces : List (List Byte)),
    2 ^ 1023 ≤ n → n < 2 ^ 1024 → (∀ x < n, x ^ (0x10001 * d) % n = x) → head.length = 16 →
    (∀ ch ∈ pieces, ch.length ≤ 117) →
    pieces.flatten =
      head ++ xorAlign (revBytes (xorAlign p [0x8d, 0xa5, 0xa5, 0x8d])) (derive kt head).toList →
    decryptBytes n kt (pieces.flatMap fun ch => i2osp (os2ip (padBlock ch) ^ d % n) 128) =
      .ok (p, derive kt head)

/-- R113(c): for the all-zero seed the derived key is never MASK12, whatever the KeyTable. -/
def Obligations.ZeroSeedKeyIsNotMask12 : Prop :=
  ∀ kt : Nat → Byte, (derive kt (List.replicate 16 0x00)).toList ≠ Config.mask12

/-! ### Byte strings (00_scope.md) -/

/-- R11, R12, R13: the place value of every byte, the conversions are inverse to each other, and MinBE
is the shortest string. -/
def Obligations.BigEndianConversions : Prop :=
  (∀ s : List Byte,
    os2ip s = ∑ i ∈ Finset.range s.length, (s.getD i 0).toNat * 256 ^ (s.length - 1 - i)) ∧
  (∀ (s : List Byte) (b : Byte), os2ip (s ++ [b]) = 256 * os2ip s + b.toNat) ∧ os2ip [] = 0 ∧
    (∀ x n : Nat, x < 256 ^ n → (i2osp x n).length = n ∧ os2ip (i2osp x n) = x) ∧
    (∀ s : List Byte, i2osp (os2ip s) s.length = s) ∧
    ∀ x : Nat, x < 256 ^ 128 → os2ip (minBE x) = x ∧ (minBE x).head? ≠ some 0x00 ∧
      ∀ s : List Byte, os2ip s = x → (minBE x).length ≤ s.length
end

