-- ==== Sys2Proof/Laws/Bytes.lean ====
section
/-! SUPPORT. Lengths and bounds of the byte-string functions. -/

namespace Sys2Proof.Machine

@[simp] theorem i2osp_zero (x : Nat) : i2osp x 0 = [] := rfl

@[simp] theorem i2osp_length (x n : Nat) : (i2osp x n).length = n := by simp [i2osp]

theorem i2osp_succ (x n : Nat) : i2osp x (n + 1) = i2osp (x / 256) n ++ [BitVec.ofNat 8 x] := by
  rw [i2osp, List.range_succ, List.map_append, i2osp]
  congr 1
  · refine List.map_congr_left fun i hi => ?_
    obtain ⟨k, rfl⟩ : ∃ k, n = i + 1 + k := ⟨n - (i + 1), by have := List.mem_range.1 hi; omega⟩
    rw [Nat.div_div_eq_div_mul, show i + 1 + k + 1 - 1 - i = k + 1 by omega,
      show i + 1 + k - 1 - i = k by omega, Nat.pow_succ, Nat.mul_comm]
  · simp

@[simp] theorem os2ip_nil : os2ip [] = 0 := rfl

@[simp] theorem os2ip_append_singleton (s : List Byte) (b : Byte) :
    os2ip (s ++ [b]) = os2ip s * 256 + b.toNat := by
  simp [os2ip]

theorem os2ip_lt (s : List Byte) : os2ip s < 256 ^ s.length := by
  induction s using List.reverseRecOn with
  | nil => simp
  | append_singleton s b ih =>
    rw [os2ip_append_singleton, List.length_append, List.length_singleton, Nat.pow_succ]
    have := b.isLt
    omega

theorem os2ip_i2osp (x n : Nat) : os2ip (i2osp x n) = x % 256 ^ n := by
  induction n generalizing x with
  | zero => simp [Nat.mod_one]
  | succ n ih =>
    rw [i2osp_succ, os2ip_append_singleton, ih, Nat.pow_succ, Nat.mul_comm (256 ^ n) 256, Nat.mod_mul]
    simp only [BitVec.toNat_ofNat]
    omega

theorem i2osp_os2ip (s : List Byte) : i2osp (os2ip s) s.length = s := by
  induction s using List.reverseRecOn with
  | nil => simp
  | append_singleton s b ih =>
    have hb := b.isLt
    have h₁ : (os2ip s * 256 + b.toNat) / 256 = os2ip s := by omega
    have h₂ : BitVec.ofNat 8 (os2ip s * 256 + b.toNat) = b := by
      apply BitVec.eq_of_toNat_eq
      rw [BitVec.toNat_ofNat]
      omega
    rw [os2ip_append_singleton, List.length_append, List.length_singleton, i2osp_succ, h₁, h₂, ih]

@[simp] theorem keystream_length (k : List Byte) (L : Nat) : (keystream k L).length = L := by
  simp [keystream]

@[simp] theorem xorAlign_length (s k : List Byte) : (xorAlign s k).length = s.length := by
  simp [xorAlign]

@[simp] theorem revBytes_length (s : List Byte) : (revBytes s).length = s.length := by
  simp [revBytes]

@[simp] theorem modExp_length (n : Nat) (b : List Byte) : (modExp n b).length = 128 := by
  simp [modExp]

theorem padBlock_length {ch : List Byte} (h : ch.length ≤ 117) : (padBlock ch).length = 128 := by
  simp [padBlock]
  omega

@[simp] theorem xorEnc_length (p : List Byte) : (xorEnc p).length = p.length := by simp [xorEnc]

@[simp] theorem xorDec_length (r k : List Byte) : (xorDec r k).length = r.length := by simp [xorDec]

@[simp] theorem slice_length (s : List Byte) (i j : Nat) :
    (slice s i j).length = min j s.length - i := by simp [slice]

end Sys2Proof.Machine
end

