-- ==== Sys2Proof/Laws/Config.lean ====
section
/-! SUPPORT. The bounds built into the open parameters. -/

namespace Sys2Proof.Config

/-- `2^k + 2m + 1 < 2^(k+1)` for `m` of `k - 1` bits. -/
theorem topBit_lt {k j l : Nat} (hj : j = k + 1) (hl : l = j + 1) (m : BitVec k) :
    2 ^ j + 2 * m.toNat + 1 < 2 ^ l := by
  subst hj hl
  have h := m.isLt
  simp only [Nat.pow_succ]
  omega

theorem topBit_odd {j : Nat} (hj : 0 < j) (m : Nat) : (2 ^ j + 2 * m + 1) % 2 = 1 := by
  obtain ⟨k, rfl⟩ : ∃ k, j = k + 1 := ⟨j - 1, by omega⟩
  simp only [Nat.pow_succ]
  omega

theorem modN_lower : 2 ^ 1023 ≤ modN := by
  unfold modN
  exact Nat.le_add_right_of_le (Nat.le_add_right _ _)

theorem modN_upper : modN < 2 ^ 1024 := by
  unfold modN
  exact @topBit_lt 1022 1023 1024 rfl rfl modNMiddle

theorem modN_odd : modN % 2 = 1 := by
  unfold modN
  exact @topBit_odd 1023 (by decide) modNMiddle.toNat

theorem modN_pos : 0 < modN := Nat.pos_of_ne_zero fun h => by
  have := modN_odd
  rw [h] at this
  cases this

theorem ktLen_ge : 133 ≤ ktLen := Nat.le_add_right _ _

@[simp] theorem encSeed_length : encSeed.length = 16 := rfl

theorem dmemSize_ge : 256 ≤ dmemSize := by
  unfold dmemSize
  omega

theorem dmemSize_le : dmemSize ≤ 2 ^ 24 := by
  have := dmemExtra.isLt
  unfold dmemSize
  omega

theorem dmemSize_mod : dmemSize % 4 = 0 := by
  unfold dmemSize
  omega

end Sys2Proof.Config
end

