-- ==== Sys2Proof/Laws/State.lean ====
section
/-! SUPPORT. One lemma per field per state update, true by rfl. -/

namespace Sys2Proof.Machine

variable (s : State)
/-! ### `State.setAccerr` (R47) -/
@[simp] theorem State.setAccerr_done : s.setAccerr.done = s.done := rfl
@[simp] theorem State.setAccerr_err : s.setAccerr.err = s.err := rfl
@[simp] theorem State.setAccerr_accerr : s.setAccerr.accerr = true := rfl
@[simp] theorem State.setAccerr_errcode : s.setAccerr.errcode = s.errcode := rfl
@[simp] theorem State.setAccerr_irqEn : s.setAccerr.irqEn = s.irqEn := rfl
@[simp] theorem State.setAccerr_src : s.setAccerr.src = s.src := rfl
@[simp] theorem State.setAccerr_len : s.setAccerr.len = s.len := rfl
@[simp] theorem State.setAccerr_dst : s.setAccerr.dst = s.dst := rfl
@[simp] theorem State.setAccerr_outlen : s.setAccerr.outlen = s.outlen := rfl
@[simp] theorem State.setAccerr_kreg : s.setAccerr.kreg = s.kreg := rfl
@[simp] theorem State.setAccerr_inflight : s.setAccerr.inflight = s.inflight := rfl
@[simp] theorem State.setAccerr_dmem : s.setAccerr.dmem = s.dmem := rfl
@[simp] theorem State.setAccerr_dmemDraw : s.setAccerr.dmemDraw = s.dmemDraw := rfl
@[simp] theorem State.setAccerr_draws : s.setAccerr.draws = s.draws := rfl
@[simp] theorem State.setAccerr_rdata : s.setAccerr.rdata = s.rdata := rfl
@[simp] theorem State.setAccerr_arrivals : s.setAccerr.arrivals = s.arrivals := rfl

/-! ### `State.finish` (R75) -/
@[simp] theorem State.finish_done : s.finish.done = true := rfl
@[simp] theorem State.finish_err : s.finish.err = s.err := rfl
@[simp] theorem State.finish_accerr : s.finish.accerr = s.accerr := rfl
@[simp] theorem State.finish_errcode : s.finish.errcode = s.errcode := rfl
@[simp] theorem State.finish_irqEn : s.finish.irqEn = s.irqEn := rfl
@[simp] theorem State.finish_src : s.finish.src = s.src := rfl
@[simp] theorem State.finish_len : s.finish.len = s.len := rfl
@[simp] theorem State.finish_dst : s.finish.dst = s.dst := rfl
@[simp] theorem State.finish_outlen : s.finish.outlen = s.outlen := rfl
@[simp] theorem State.finish_kreg : s.finish.kreg = s.kreg := rfl
@[simp] theorem State.finish_inflight : s.finish.inflight = none := rfl
@[simp] theorem State.finish_dmem : s.finish.dmem = s.dmem := rfl
@[simp] theorem State.finish_dmemDraw : s.finish.dmemDraw = s.dmemDraw := rfl
@[simp] theorem State.finish_draws : s.finish.draws = s.draws := rfl
@[simp] theorem State.finish_rdata : s.finish.rdata = s.rdata := rfl
@[simp] theorem State.finish_arrivals : s.finish.arrivals = s.arrivals := rfl

/-! ### `State.writeStatus` (R22) -/
@[simp] theorem State.writeStatus_done (v : Word) : (s.writeStatus v).done =
    (s.done && !v.getLsbD 1) := rfl
@[simp] theorem State.writeStatus_err (v : Word) : (s.writeStatus v).err =
    (s.err && !v.getLsbD 2) := rfl
@[simp] theorem State.writeStatus_accerr (v : Word) : (s.writeStatus v).accerr =
    (s.accerr && !v.getLsbD 3) := rfl
@[simp] theorem State.writeStatus_errcode (v : Word) : (s.writeStatus v).errcode = s.errcode := rfl
@[simp] theorem State.writeStatus_irqEn (v : Word) : (s.writeStatus v).irqEn = s.irqEn := rfl
@[simp] theorem State.writeStatus_src (v : Word) : (s.writeStatus v).src = s.src := rfl
@[simp] theorem State.writeStatus_len (v : Word) : (s.writeStatus v).len = s.len := rfl
@[simp] theorem State.writeStatus_dst (v : Word) : (s.writeStatus v).dst = s.dst := rfl
@[simp] theorem State.writeStatus_outlen (v : Word) : (s.writeStatus v).outlen = s.outlen := rfl
@[simp] theorem State.writeStatus_kreg (v : Word) : (s.writeStatus v).kreg = s.kreg := rfl
@[simp] theorem State.writeStatus_inflight (v : Word) : (s.writeStatus v).inflight =
    s.inflight := rfl
@[simp] theorem State.writeStatus_dmem (v : Word) : (s.writeStatus v).dmem = s.dmem := rfl
@[simp] theorem State.writeStatus_dmemDraw (v : Word) : (s.writeStatus v).dmemDraw =
    s.dmemDraw := rfl
@[simp] theorem State.writeStatus_draws (v : Word) : (s.writeStatus v).draws = s.draws := rfl
@[simp] theorem State.writeStatus_rdata (v : Word) : (s.writeStatus v).rdata = s.rdata := rfl
@[simp] theorem State.writeStatus_arrivals (v : Word) : (s.writeStatus v).arrivals =
    s.arrivals := rfl

/-! ### `State.putBytes` (R52) -/
@[simp] theorem State.putBytes_done (a : Nat) (v : List Byte) : (s.putBytes a v).done =
    s.done := rfl
@[simp] theorem State.putBytes_err (a : Nat) (v : List Byte) : (s.putBytes a v).err = s.err := rfl
@[simp] theorem State.putBytes_accerr (a : Nat) (v : List Byte) : (s.putBytes a v).accerr =
    s.accerr := rfl
@[simp] theorem State.putBytes_errcode (a : Nat) (v : List Byte) : (s.putBytes a v).errcode =
    s.errcode := rfl
@[simp] theorem State.putBytes_irqEn (a : Nat) (v : List Byte) : (s.putBytes a v).irqEn =
    s.irqEn := rfl
@[simp] theorem State.putBytes_src (a : Nat) (v : List Byte) : (s.putBytes a v).src = s.src := rfl
@[simp] theorem State.putBytes_len (a : Nat) (v : List Byte) : (s.putBytes a v).len = s.len := rfl
@[simp] theorem State.putBytes_dst (a : Nat) (v : List Byte) : (s.putBytes a v).dst = s.dst := rfl
@[simp] theorem State.putBytes_outlen (a : Nat) (v : List Byte) : (s.putBytes a v).outlen =
    s.outlen := rfl
@[simp] theorem State.putBytes_kreg (a : Nat) (v : List Byte) : (s.putBytes a v).kreg =
    s.kreg := rfl
@[simp] theorem State.putBytes_inflight (a : Nat) (v : List Byte) : (s.putBytes a v).inflight =
    s.inflight := rfl
@[simp] theorem State.putBytes_dmem (a : Nat) (v : List Byte) : (s.putBytes a v).dmem =
    Memory.setBytes s.dmem a v := rfl
@[simp] theorem State.putBytes_dmemDraw (a : Nat) (v : List Byte) : (s.putBytes a v).dmemDraw =
    s.dmemDraw := rfl
@[simp] theorem State.putBytes_draws (a : Nat) (v : List Byte) : (s.putBytes a v).draws =
    s.draws := rfl
@[simp] theorem State.putBytes_rdata (a : Nat) (v : List Byte) : (s.putBytes a v).rdata =
    s.rdata := rfl
@[simp] theorem State.putBytes_arrivals (a : Nat) (v : List Byte) : (s.putBytes a v).arrivals =
    s.arrivals := rfl

/-! ### `State.havoc` (R122) -/
@[simp] theorem State.havoc_done (a n : Nat) : (s.havoc a n).done = s.done := rfl
@[simp] theorem State.havoc_err (a n : Nat) : (s.havoc a n).err = s.err := rfl
@[simp] theorem State.havoc_accerr (a n : Nat) : (s.havoc a n).accerr = s.accerr := rfl
@[simp] theorem State.havoc_errcode (a n : Nat) : (s.havoc a n).errcode = s.errcode := rfl
@[simp] theorem State.havoc_irqEn (a n : Nat) : (s.havoc a n).irqEn = s.irqEn := rfl
@[simp] theorem State.havoc_src (a n : Nat) : (s.havoc a n).src = s.src := rfl
@[simp] theorem State.havoc_len (a n : Nat) : (s.havoc a n).len = s.len := rfl
@[simp] theorem State.havoc_dst (a n : Nat) : (s.havoc a n).dst = s.dst := rfl
@[simp] theorem State.havoc_outlen (a n : Nat) : (s.havoc a n).outlen = s.outlen := rfl
@[simp] theorem State.havoc_kreg (a n : Nat) : (s.havoc a n).kreg = s.kreg := rfl
@[simp] theorem State.havoc_inflight (a n : Nat) : (s.havoc a n).inflight = s.inflight := rfl
@[simp] theorem State.havoc_dmem (a n : Nat) : (s.havoc a n).dmem =
    Memory.setBytes s.dmem a ((List.range n).map fun i => Config.freeByte s.draws (a + i)) := rfl
@[simp] theorem State.havoc_dmemDraw (a n : Nat) : (s.havoc a n).dmemDraw = s.dmemDraw := rfl
@[simp] theorem State.havoc_draws (a n : Nat) : (s.havoc a n).draws = s.draws + 1 := rfl
@[simp] theorem State.havoc_rdata (a n : Nat) : (s.havoc a n).rdata = s.rdata := rfl
@[simp] theorem State.havoc_arrivals (a n : Nat) : (s.havoc a n).arrivals = s.arrivals := rfl

/-! ### `State.pop` (R57) -/
@[simp] theorem State.pop_done : s.pop.done = s.done := rfl
@[simp] theorem State.pop_err : s.pop.err = s.err := rfl
@[simp] theorem State.pop_accerr : s.pop.accerr = s.accerr := rfl
@[simp] theorem State.pop_errcode : s.pop.errcode = s.errcode := rfl
@[simp] theorem State.pop_irqEn : s.pop.irqEn = s.irqEn := rfl
@[simp] theorem State.pop_src : s.pop.src = s.src := rfl
@[simp] theorem State.pop_len : s.pop.len = s.len := rfl
@[simp] theorem State.pop_dst : s.pop.dst = s.dst := rfl
@[simp] theorem State.pop_outlen : s.pop.outlen = s.outlen := rfl
@[simp] theorem State.pop_kreg : s.pop.kreg = s.kreg := rfl
@[simp] theorem State.pop_inflight : s.pop.inflight = s.inflight := rfl
@[simp] theorem State.pop_dmem : s.pop.dmem = s.dmem := rfl
@[simp] theorem State.pop_dmemDraw : s.pop.dmemDraw = s.dmemDraw := rfl
@[simp] theorem State.pop_draws : s.pop.draws = s.draws := rfl
@[simp] theorem State.pop_rdata : s.pop.rdata = s.rdata := rfl
@[simp] theorem State.pop_arrivals : s.pop.arrivals = s.arrivals.tail := rfl

/-! ### `State.launch` (R73) -/
@[simp] theorem State.launch_done (w : Word) : (s.launch w).done = false := rfl
@[simp] theorem State.launch_err (w : Word) : (s.launch w).err = false := rfl
@[simp] theorem State.launch_accerr (w : Word) : (s.launch w).accerr = s.accerr := rfl
@[simp] theorem State.launch_errcode (w : Word) : (s.launch w).errcode = 0 := rfl
@[simp] theorem State.launch_irqEn (w : Word) : (s.launch w).irqEn = s.irqEn := rfl
@[simp] theorem State.launch_src (w : Word) : (s.launch w).src = s.src := rfl
@[simp] theorem State.launch_len (w : Word) : (s.launch w).len = s.len := rfl
@[simp] theorem State.launch_dst (w : Word) : (s.launch w).dst = s.dst := rfl
@[simp] theorem State.launch_outlen (w : Word) : (s.launch w).outlen = 0 := rfl
@[simp] theorem State.launch_kreg (w : Word) : (s.launch w).kreg = s.kreg := rfl
@[simp] theorem State.launch_inflight (w : Word) : (s.launch w).inflight =
    some { word := w, src := s.src, len := s.len, dst := s.dst } := rfl
@[simp] theorem State.launch_dmem (w : Word) : (s.launch w).dmem = s.dmem := rfl
@[simp] theorem State.launch_dmemDraw (w : Word) : (s.launch w).dmemDraw = s.dmemDraw := rfl
@[simp] theorem State.launch_draws (w : Word) : (s.launch w).draws = s.draws := rfl
@[simp] theorem State.launch_rdata (w : Word) : (s.launch w).rdata = s.rdata := rfl
@[simp] theorem State.launch_arrivals (w : Word) : (s.launch w).arrivals = s.arrivals := rfl

/-! ### `State.failCommand` (R122) -/
@[simp] theorem State.failCommand_done (e : ErrCode) : (s.failCommand e).done = true := rfl
@[simp] theorem State.failCommand_err (e : ErrCode) : (s.failCommand e).err = true := rfl
@[simp] theorem State.failCommand_accerr (e : ErrCode) : (s.failCommand e).accerr = s.accerr := rfl
@[simp] theorem State.failCommand_errcode (e : ErrCode) : (s.failCommand e).errcode = e.code := rfl
@[simp] theorem State.failCommand_irqEn (e : ErrCode) : (s.failCommand e).irqEn = s.irqEn := rfl
@[simp] theorem State.failCommand_src (e : ErrCode) : (s.failCommand e).src = s.src := rfl
@[simp] theorem State.failCommand_len (e : ErrCode) : (s.failCommand e).len = s.len := rfl
@[simp] theorem State.failCommand_dst (e : ErrCode) : (s.failCommand e).dst = s.dst := rfl
@[simp] theorem State.failCommand_outlen (e : ErrCode) : (s.failCommand e).outlen = s.outlen := rfl
@[simp] theorem State.failCommand_kreg (e : ErrCode) : (s.failCommand e).kreg = s.kreg := rfl
@[simp] theorem State.failCommand_inflight (e : ErrCode) : (s.failCommand e).inflight = none := rfl
@[simp] theorem State.failCommand_dmem (e : ErrCode) : (s.failCommand e).dmem = s.dmem := rfl
@[simp] theorem State.failCommand_dmemDraw (e : ErrCode) : (s.failCommand e).dmemDraw =
    s.dmemDraw := rfl
@[simp] theorem State.failCommand_draws (e : ErrCode) : (s.failCommand e).draws = s.draws := rfl
@[simp] theorem State.failCommand_rdata (e : ErrCode) : (s.failCommand e).rdata = s.rdata := rfl
@[simp] theorem State.failCommand_arrivals (e : ErrCode) : (s.failCommand e).arrivals =
    s.arrivals := rfl

/-! ### `State.resetRegisters` (R134) -/
@[simp] theorem State.resetRegisters_done : s.resetRegisters.done = false := rfl
@[simp] theorem State.resetRegisters_err : s.resetRegisters.err = false := rfl
@[simp] theorem State.resetRegisters_accerr : s.resetRegisters.accerr = false := rfl
@[simp] theorem State.resetRegisters_errcode : s.resetRegisters.errcode = 0 := rfl
@[simp] theorem State.resetRegisters_irqEn : s.resetRegisters.irqEn = false := rfl
@[simp] theorem State.resetRegisters_src : s.resetRegisters.src = 0 := rfl
@[simp] theorem State.resetRegisters_len : s.resetRegisters.len = 0 := rfl
@[simp] theorem State.resetRegisters_dst : s.resetRegisters.dst = 0 := rfl
@[simp] theorem State.resetRegisters_outlen : s.resetRegisters.outlen = 0 := rfl
@[simp] theorem State.resetRegisters_kreg : s.resetRegisters.kreg = Vector.replicate 12 0 := rfl
@[simp] theorem State.resetRegisters_inflight : s.resetRegisters.inflight = none := rfl
@[simp] theorem State.resetRegisters_dmem : s.resetRegisters.dmem = s.dmem := rfl
@[simp] theorem State.resetRegisters_dmemDraw : s.resetRegisters.dmemDraw = s.dmemDraw := rfl
@[simp] theorem State.resetRegisters_draws : s.resetRegisters.draws = s.draws := rfl
@[simp] theorem State.resetRegisters_rdata : s.resetRegisters.rdata = s.rdata := rfl
@[simp] theorem State.resetRegisters_arrivals : s.resetRegisters.arrivals = s.arrivals := rfl

/-! ### `State.hardReset` (R134) -/
@[simp] theorem State.hardReset_done : s.hardReset.done = false := rfl
@[simp] theorem State.hardReset_err : s.hardReset.err = false := rfl
@[simp] theorem State.hardReset_accerr : s.hardReset.accerr = false := rfl
@[simp] theorem State.hardReset_errcode : s.hardReset.errcode = 0 := rfl
@[simp] theorem State.hardReset_irqEn : s.hardReset.irqEn = false := rfl
@[simp] theorem State.hardReset_src : s.hardReset.src = 0 := rfl
@[simp] theorem State.hardReset_len : s.hardReset.len = 0 := rfl
@[simp] theorem State.hardReset_dst : s.hardReset.dst = 0 := rfl
@[simp] theorem State.hardReset_outlen : s.hardReset.outlen = 0 := rfl
@[simp] theorem State.hardReset_kreg : s.hardReset.kreg = Vector.replicate 12 0 := rfl
@[simp] theorem State.hardReset_inflight : s.hardReset.inflight = none := rfl
@[simp] theorem State.hardReset_dmem : s.hardReset.dmem = [] := rfl
@[simp] theorem State.hardReset_dmemDraw : s.hardReset.dmemDraw = s.draws := rfl
@[simp] theorem State.hardReset_draws : s.hardReset.draws = s.draws + 1 := rfl
@[simp] theorem State.hardReset_rdata : s.hardReset.rdata = s.rdata := rfl
@[simp] theorem State.hardReset_arrivals : s.hardReset.arrivals = s.arrivals := rfl

end Sys2Proof.Machine
end

