-- ==== Sys2Proof/Laws/Memory.lean ====
section
/-! SUPPORT. DMEM: read after write, and every memory operation keeps the canonical form. -/

namespace Sys2Proof.Machine

theorem Memory.get?_set (m : Memory) (a b : Nat) (v : Byte) :
    Memory.get? (Memory.set m a v) b = if b = a then some v else Memory.get? m b := by
  induction m with
  | nil => simp [Memory.set, Memory.get?]
  | cons c m ih =>
    unfold Memory.set
    split_ifs with h₁ h₂ h₃ h₃ h₃ <;> simp_all [Memory.get?]

theorem Memory.get?_setBytes (m : Memory) (a : Nat) (vs : List Byte) (b : Nat) :
    Memory.get? (Memory.setBytes m a vs) b =
      if a ≤ b ∧ b < a + vs.length then some (vs.getD (b - a) 0) else Memory.get? m b := by
  induction vs generalizing m a with
  | nil => simp [Memory.setBytes]
  | cons v vs ih =>
    rw [Memory.setBytes, ih, Memory.get?_set]
    by_cases hba : b = a
    · subst hba
      have h : ¬(b + 1 ≤ b ∧ b < b + 1 + vs.length) := by omega
      simp
    · by_cases hin : a + 1 ≤ b ∧ b < a + 1 + vs.length
      · obtain ⟨k, rfl⟩ : ∃ k, b = a + 1 + k := ⟨b - (a + 1), by omega⟩
        have h₁ : a + 1 + k - a = k + 1 := by omega
        have h₂ : a + 1 + k - (a + 1) = k := by omega
        have h₃ : a ≤ a + 1 + k ∧ a + 1 + k < a + (vs.length + 1) := by omega
        simp [hin, h₁, h₂, h₃]
      · have h : ¬(a ≤ b ∧ b < a + (v :: vs).length) := by simp only [List.length_cons]; omega
        rw [if_neg hin, if_neg h, if_neg hba]

theorem Memory.mem_set {m : Memory} {a : Nat} {v : Byte} {c : Host.Cell}
    (h : c ∈ Memory.set m a v) : c = (a, v) ∨ c ∈ m := by
  induction m with
  | nil => simpa [Memory.set] using h
  | cons d m ih =>
    unfold Memory.set at h
    split_ifs at h with h₁ h₂
    · simpa using h
    · rcases List.mem_cons.1 h with h | h <;> simp [h]
    · rcases List.mem_cons.1 h with h | h
      · simp [h]
      · rcases ih h with h | h <;> simp [h]

theorem Memory.mem_setBytes {m : Memory} {a : Nat} {vs : List Byte} {c : Host.Cell}
    (h : c ∈ Memory.setBytes m a vs) : (a ≤ c.1 ∧ c.1 < a + vs.length) ∨ c ∈ m := by
  induction vs generalizing m a with
  | nil => exact .inr h
  | cons v vs ih =>
    rcases ih h with h | h
    · simp only [List.length_cons]; omega
    · rcases Memory.mem_set h with rfl | h
      · simp
      · exact .inr h

/-- Recording a byte keeps the canonical form. -/
theorem Memory.wf_set {m : Memory} (h : Memory.wf m) (a : Nat) (v : Byte) :
    Memory.wf (Memory.set m a v) := by
  induction m with
  | nil => simp [Memory.set]
  | cons d m ih =>
    rw [Memory.wf, List.pairwise_cons] at h
    unfold Memory.set
    split_ifs with h₁ h₂
    · refine List.pairwise_cons.2 ⟨fun c hc => ?_, List.pairwise_cons.2 h⟩
      rcases List.mem_cons.1 hc with rfl | hc
      · exact h₁
      · exact lt_trans h₁ (h.1 c hc)
    · subst h₂
      exact List.pairwise_cons.2 ⟨h.1, h.2⟩
    · refine List.pairwise_cons.2 ⟨fun c hc => ?_, ih h.2⟩
      rcases Memory.mem_set hc with rfl | hc
      · show d.1 < a
        omega
      · exact h.1 c hc

/-- Recording a byte string keeps the canonical form. -/
theorem Memory.wf_setBytes {m : Memory} (h : Memory.wf m) (a : Nat) (vs : List Byte) :
    Memory.wf (Memory.setBytes m a vs) := by
  induction vs generalizing m a with
  | nil => exact h
  | cons v vs ih => exact ih (Memory.wf_set h a v) (a + 1)

/-- The memory of the reset state has the canonical form. -/
theorem reset_memory_wf : Memory.wf State.reset.dmem := List.Pairwise.nil

/-- What a read of one byte gives after a write of a byte string. -/
theorem State.byteAt_putBytes (s : State) (a : Nat) (vs : List Byte) (b : Nat) :
    (s.putBytes a vs).byteAt b =
      if a ≤ b ∧ b < a + vs.length then vs.getD (b - a) 0 else s.byteAt b := by
  rw [State.byteAt, State.putBytes_dmem, Memory.get?_setBytes]
  split_ifs <;> simp [State.byteAt]

/-- What a read of one byte gives after a range was made free. -/
theorem State.byteAt_havoc (s : State) (a n b : Nat) :
    (s.havoc a n).byteAt b =
      if a ≤ b ∧ b < a + n then Config.freeByte s.draws b else s.byteAt b := by
  rw [State.byteAt, State.havoc_dmem, Memory.get?_setBytes]
  split_ifs with h₁ h₂ h₂
  · have h : b - a < n := by omega
    have h' : a + (b - a) = b := by omega
    simp [List.getD, h, h']
  · simp at h₁; omega
  · simp at h₁; omega
  · simp [State.byteAt]

/-- A read of one byte depends only on DMEM and on the draw of its unlisted bytes. -/
theorem State.byteAt_congr {s t : State} (hm : t.dmem = s.dmem) (hd : t.dmemDraw = s.dmemDraw)
    (a : Nat) : t.byteAt a = s.byteAt a := by
  rw [State.byteAt, State.byteAt, hm, hd]

@[simp] theorem State.bytesAt_length (s : State) (a n : Nat) : (s.bytesAt a n).length = n := by
  simp [State.bytesAt]

theorem State.bytesAt_getD (s : State) (a n i : Nat) (h : i < n) :
    (s.bytesAt a n).getD i 0 = s.byteAt (a + i) := by
  simp [State.bytesAt, h]

end Sys2Proof.Machine
end

