-- ==== Sys2Proof/Laws/Ops.lean ====
section
/-! SUPPORT. For each shared operation, once, everything it can do. -/

namespace Sys2Proof.Machine

theorem State.memRead_eq_ok {s : State} {a n : Nat} {bs : List Byte} :
    s.memRead a n = .ok bs ↔ a + n ≤ Config.dmemSize ∧ s.bytesAt a n = bs := by
  unfold State.memRead
  split_ifs with h <;> simp [h]

theorem State.memWrite_eq_ok {s t : State} {a : Nat} {v : List Byte} :
    s.memWrite a v = .ok t ↔ (v = [] ∨ a + v.length ≤ Config.dmemSize) ∧ s.putBytes a v = t := by
  unfold State.memWrite
  split_ifs with h <;> simp [h]

/-- The state after a completion with `Ok(out, key)`, `v` being the bytes of `out` (40_command.md R75). -/
theorem State.succeed_eq_ok {s t : State} {dst : Nat} {out : Option (List Byte)} {key : Option Key} :
    s.succeed dst out key = .ok t ↔
      (out.getD [] = [] ∨ dst + (out.getD []).length ≤ Config.dmemSize) ∧
        t = { s with
          dmem := Memory.setBytes s.dmem dst (out.getD [])
          kreg := key.getD s.kreg
          outlen := BitVec.ofNat 32 (out.getD []).length
          inflight := none
          done := true } := by
  unfold State.succeed
  cases h : s.memWrite dst (out.getD []) with
  | error f =>
    have hn : ¬(out.getD [] = [] ∨ dst + (out.getD []).length ≤ Config.dmemSize) := fun hc => by
      rw [State.memWrite, if_pos hc] at h
      exact absurd h (by simp)
    simp [hn]
  | ok u =>
    obtain ⟨hr, rfl⟩ := State.memWrite_eq_ok.1 h
    simp only [Except.ok.injEq, hr, true_and]
    exact eq_comm

theorem State.withSource_eq_ok {s : State} {a n : Nat} {f : List Byte → BodyResult} {r : BodyResult} :
    s.withSource a n f = .ok r ↔ a + n ≤ Config.dmemSize ∧ f (s.bytesAt a n) = r := by
  unfold State.withSource State.memRead
  split_ifs with h <;> simp [h]

/-- A source read inside DMEM never faults. -/
theorem State.withSource_of_le {s : State} {a n : Nat} (f : List Byte → BodyResult)
    (h : a + n ≤ Config.dmemSize) : s.withSource a n f = .ok (f (s.bytesAt a n)) :=
  State.withSource_eq_ok.2 ⟨h, rfl⟩

theorem sourceInDmem_iff {l : Latch} :
    sourceInDmem l = true ↔ l.src.toNat + l.len.toNat ≤ Config.dmemSize := by
  simp [sourceInDmem]

theorem destInDmem_iff {l : Latch} {n : Nat} :
    destInDmem l n = true ↔ n = 0 ∨ l.dst.toNat + n ≤ Config.dmemSize := by
  simp [destInDmem]

theorem rangesOverlap_iff {l : Latch} {n : Nat} :
    rangesOverlap l n = true ↔
      0 < l.len.toNat ∧ 0 < n ∧ l.src.toNat < l.dst.toNat + n ∧
        l.dst.toNat < l.src.toNat + l.len.toNat := by
  simp [rangesOverlap, and_assoc]

/-- What checks 2 to 5 of 60_exceptions.md R120 establish when all pass, for a command other than
NOP. -/
theorem checkOperands_eq_none {i : Instr} {l : Latch} (hi : i ≠ .nop) :
    checkOperands i l = none ↔
      lengthError i l.len.toNat = none ∧
      l.src.toNat + l.len.toNat ≤ Config.dmemSize ∧
      (outMax i l.len.toNat = 0 ∨ l.dst.toNat + outMax i l.len.toNat ≤ Config.dmemSize) ∧
      ¬(0 < l.len.toNat ∧ 0 < outMax i l.len.toNat ∧
        l.src.toNat < l.dst.toNat + outMax i l.len.toNat ∧
        l.dst.toNat < l.src.toNat + l.len.toNat) := by
  unfold checkOperands
  rw [if_neg hi]
  cases h : lengthError i l.len.toNat with
  | some e => simp
  | none =>
    rw [← sourceInDmem_iff, ← destInDmem_iff, ← rangesOverlap_iff]
    cases sourceInDmem l <;> cases destInDmem l (outMax i l.len.toNat) <;>
      cases rangesOverlap l (outMax i l.len.toNat) <;> simp

/-- A range that passes the end of DMEM is what check 4 reports, once the length is legal
(60_exceptions.md R120). -/
theorem checkOperands_errRange {i : Instr} {l : Latch} (hi : i ≠ .nop)
    (hl : lengthError i l.len.toNat = none)
    (h : Config.dmemSize < l.src.toNat + l.len.toNat ∨
      (outMax i l.len.toNat ≠ 0 ∧ Config.dmemSize < l.dst.toNat + outMax i l.len.toNat)) :
    checkOperands i l = some .errRange := by
  have hb : (sourceInDmem l && destInDmem l (outMax i l.len.toNat)) = false := by
    simp only [Bool.and_eq_false_iff, sourceInDmem, destInDmem, Bool.or_eq_false_iff,
      decide_eq_false_iff_not]
    omega
  simp [checkOperands, hi, hl, hb]

@[simp] theorem checkOperands_nop (l : Latch) : checkOperands .nop l = none := rfl

/-- Everything a completion step can do when it answers a next state (40_command.md R75). -/
theorem runCommand_cases {i : Instr} {body : Latch → State → Except Fault BodyResult} {s t : State}
    (h : runCommand i body s = .next t) :
    ∃ l, s.inflight = some l ∧
      ((∃ e, checkOperands i l = some e ∧ t = s.failCommand e) ∨
        (checkOperands i l = none ∧ ∃ e, body l s = .ok (.fail e) ∧
          t = (s.havoc l.dst.toNat (outMax i l.len.toNat)).failCommand e) ∨
        (checkOperands i l = none ∧ ∃ out key, body l s = .ok (.ok out key) ∧
          s.succeed l.dst.toNat out key = .ok t)) := by
  unfold runCommand at h
  cases hl : s.inflight with
  | none => simp [hl] at h
  | some l =>
    refine ⟨l, rfl, ?_⟩
    simp only [hl] at h
    cases hc : checkOperands i l with
    | some e => simp only [hc, Host.Outcome.next.injEq] at h; exact .inl ⟨e, rfl, h.symm⟩
    | none =>
      simp only [hc] at h
      cases hb : body l s with
      | error f => simp [hb] at h
      | ok r =>
        cases r with
        | fail e =>
          simp only [hb, Host.Outcome.next.injEq] at h
          exact .inr (.inl ⟨rfl, e, rfl, h.symm⟩)
        | ok out key =>
          simp only [hb] at h
          cases hs : s.succeed l.dst.toNat out key with
          | error f => simp [hs] at h
          | ok u =>
            simp only [hs, Host.Outcome.next.injEq] at h
            exact .inr (.inr ⟨rfl, out, key, rfl, by rw [hs, h]⟩)

theorem runCommand_checkFail {i : Instr} {body : Latch → State → Except Fault BodyResult} {s : State}
    {l : Latch} {e : ErrCode} (hl : s.inflight = some l) (hc : checkOperands i l = some e) :
    runCommand i body s = .next (s.failCommand e) := by
  simp [runCommand, hl, hc]

theorem runCommand_bodyFail {i : Instr} {body : Latch → State → Except Fault BodyResult} {s : State}
    {l : Latch} {e : ErrCode} (hl : s.inflight = some l) (hc : checkOperands i l = none)
    (hb : body l s = .ok (.fail e)) :
    runCommand i body s =
      .next ((s.havoc l.dst.toNat (outMax i l.len.toNat)).failCommand e) := by
  simp [runCommand, hl, hc, hb]

theorem runCommand_ok {i : Instr} {body : Latch → State → Except Fault BodyResult} {s t : State}
    {l : Latch} {out : Option (List Byte)} {key : Option Key} (hl : s.inflight = some l)
    (hc : checkOperands i l = none) (hb : body l s = .ok (.ok out key))
    (hs : s.succeed l.dst.toNat out key = .ok t) : runCommand i body s = .next t := by
  simp [runCommand, hl, hc, hb, hs]

theorem runCommand_idle {i : Instr} {body : Latch → State → Except Fault BodyResult} {s : State}
    (hl : s.inflight = none) : runCommand i body s = .refused .noCommandInFlight := by
  simp [runCommand, hl]

/-- The soft reset: the registers of R134, and DMEM unchanged outside the abandoned command's
destination range (70_reset_and_hazards.md R136). -/
theorem State.softReset_cases (s : State) :
    (s.inflight = none ∧ s.softReset = s.resetRegisters) ∨
      ∃ l, s.inflight = some l ∧
        s.softReset = (s.havoc l.dst.toNat (abandonedBytes l)).resetRegisters := by
  unfold State.softReset
  cases h : s.inflight with
  | none => exact .inl ⟨rfl, rfl⟩
  | some l => exact .inr ⟨l, rfl, rfl⟩

theorem State.busy_eq_false {s : State} : s.busy = false ↔ s.inflight = none := by
  simp [State.busy]

theorem State.busy_eq_true {s : State} : s.busy = true ↔ ∃ l, s.inflight = some l := by
  simp [State.busy, Option.isSome_iff_exists]

end Sys2Proof.Machine
end

