-- ==== Sys2Proof/Laws/PerInstr.lean ====
section
/-! SUPPORT. Facts stated for every command, one lemma per constructor. -/

namespace Sys2Proof.Laws

/-- The word of a command has RSVD zero and its OPCODE in bits 7:0 (30_encoding.md R65, R67). -/
def WordFields.Statement (i : Instr) : Prop :=
  rsvdField (encode i) = 0 ∧ opcodeField (encode i) = i.opcode ∧ i.wellFormed = true

theorem WordFields.nop : WordFields.Statement .nop := by unfold WordFields.Statement; decide

theorem WordFields.xor4 : WordFields.Statement .xor4 := by unfold WordFields.Statement; decide

theorem WordFields.xor12 : WordFields.Statement .xor12 := by unfold WordFields.Statement; decide

theorem WordFields.xork : WordFields.Statement .xork := by unfold WordFields.Statement; decide

theorem WordFields.rev : WordFields.Statement .rev := by unfold WordFields.Statement; decide

theorem WordFields.kderive : WordFields.Statement .kderive := by unfold WordFields.Statement; decide

theorem WordFields.pad : WordFields.Statement .pad := by unfold WordFields.Statement; decide

theorem WordFields.unpad : WordFields.Statement .unpad := by unfold WordFields.Statement; decide

theorem WordFields.modexp : WordFields.Statement .modexp := by unfold WordFields.Statement; decide

theorem WordFields.encrypt : WordFields.Statement .encrypt := by unfold WordFields.Statement; decide

theorem WordFields.decrypt : WordFields.Statement .decrypt := by unfold WordFields.Statement; decide

end Sys2Proof.Laws
end

