-- ==== Sys2Proof/Laws/Pipeline.lean ====
section
/-! SUPPORT. What stripping, accumulating and decrypting can answer, and the body of each command as one
function of its source bytes. -/

namespace Sys2Proof.Machine

/-- UNPAD's only error is a missing separator (42_padding.md R96). -/
theorem unpadBlock_error {b : List Byte} {e : ErrCode} (h : unpadBlock b = .error e) :
    e = .errNosep := by
  unfold unpadBlock at h
  split at h
  · exact (Except.error.inj h).symm
  · cases h

@[simp] theorem accumulateBlocks_nil (n : Nat) : accumulateBlocks n [] = .ok [] := rfl

/-- The accumulator of a nonempty list of blocks (44_pipeline.md R111). -/
theorem accumulateBlocks_cons_ok {n : Nat} {b : List Byte} {bs : List (List Byte)} {acc : List Byte} :
    accumulateBlocks n (b :: bs) = .ok acc ↔
      ∃ u rest, unpadBlock (modExp n b) = .ok u ∧ accumulateBlocks n bs = .ok rest ∧
        acc = u ++ rest := by
  rw [accumulateBlocks]
  generalize unpadBlock (modExp n b) = x
  generalize accumulateBlocks n bs = y
  cases x <;> cases y <;> simp [eq_comm]

/-- The first failing block is the one reported (44_pipeline.md R111). -/
theorem accumulateBlocks_cons_error {n : Nat} {b : List Byte} {bs : List (List Byte)} {e : ErrCode} :
    accumulateBlocks n (b :: bs) = .error e ↔
      unpadBlock (modExp n b) = .error e ∨
        ∃ u, unpadBlock (modExp n b) = .ok u ∧ accumulateBlocks n bs = .error e := by
  rw [accumulateBlocks]
  generalize unpadBlock (modExp n b) = x
  generalize accumulateBlocks n bs = y
  cases x <;> cases y <;> simp

theorem decryptBytes_error {n : Nat} {kt : Nat → Byte} {c : List Byte} {e : ErrCode} :
    decryptBytes n kt c = .error e ↔
      accumulate n c = .error e ∨
        ∃ acc, accumulate n c = .ok acc ∧ acc.length < 16 ∧ e = .errShort := by
  rw [decryptBytes]
  generalize accumulate n c = x
  cases x with
  | error f => simp
  | ok acc => by_cases h : acc.length < 16 <;> simp [h, eq_comm]

theorem decryptBytes_ok {n : Nat} {kt : Nat → Byte} {c p : List Byte} {k : Key} :
    decryptBytes n kt c = .ok (p, k) ↔
      ∃ acc, accumulate n c = .ok acc ∧ 16 ≤ acc.length ∧ k = derive kt (acc.take 16) ∧
        p = xorDec (acc.drop 16) k.toList := by
  rw [decryptBytes]
  generalize accumulate n c = x
  cases x with
  | error f => simp
  | ok acc =>
    by_cases h : acc.length < 16
    · simp [h]
    · simp only [h, if_false, Except.ok.injEq, Prod.mk.injEq, slice, List.drop_zero]
      constructor
      · rintro ⟨rfl, rfl⟩
        exact ⟨acc, rfl, by omega, rfl, rfl⟩
      · rintro ⟨a, rfl, -, rfl, rfl⟩
        exact ⟨rfl, rfl⟩

/-- The result of UNPAD on its block (42_padding.md R99). -/
def unpadResult (b : List Byte) : BodyResult :=
  match unpadBlock b with
  | .error e => .fail e
  | .ok u => .ok (some u) none

/-- The result of DECRYPT on its ciphertext (44_pipeline.md R112). -/
def decryptResult (c : List Byte) : BodyResult :=
  match decryptBytes Config.modN Config.kt c with
  | .error e => .fail e
  | .ok (p, k) => .ok (some p) (some k)

theorem unpadBody_eq (l : Latch) (s : State) :
    unpadBody l s = s.withSource l.src.toNat 128 unpadResult := rfl

theorem decryptBody_eq (l : Latch) (s : State) :
    decryptBody l s = s.withSource l.src.toNat l.len.toNat decryptResult := rfl

theorem unpadResult_ok {b u : List Byte} (h : unpadBlock b = .ok u) :
    unpadResult b = .ok (some u) none := by
  rw [unpadResult, h]

theorem unpadResult_fail {b : List Byte} {e : ErrCode} (h : unpadBlock b = .error e) :
    unpadResult b = .fail e := by
  rw [unpadResult, h]

theorem decryptResult_ok {c p : List Byte} {k : Key}
    (h : decryptBytes Config.modN Config.kt c = .ok (p, k)) :
    decryptResult c = .ok (some p) (some k) := by
  rw [decryptResult, h]

theorem decryptResult_fail {c : List Byte} {e : ErrCode}
    (h : decryptBytes Config.modN Config.kt c = .error e) : decryptResult c = .fail e := by
  rw [decryptResult, h]

@[simp] theorem chunks_length (b : List Byte) : (chunks b).length = ceilDiv b.length 117 := by
  simp [chunks]

@[simp] theorem blocks_length (c : List Byte) : (blocks c).length = c.length / 128 := by
  simp [blocks]

end Sys2Proof.Machine
end

