-- ==== Sys2Proof/Laws/Step.lean ====
section
/-! SUPPORT. Everything an access and a step can do, once. -/

namespace Sys2Proof.Machine

/-- A DMEM target is an aligned access of a legal width below DMEM_SIZE while idle (20_memory.md R45). -/
theorem target_eq_dmem {busy : Bool} {locked : Reg → Bool} {off w a : Nat}
    (h : target busy locked off w = .dmem a) :
    busy = false ∧ (w = 1 ∨ w = 2 ∨ w = 4) ∧ off = Config.dmemOffset + a ∧
      a < Config.dmemSize ∧ a % w = 0 := by
  unfold target at h
  split_ifs at h with h₁ h₂ h₃ h₄ h₅ h₆ h₇
  · split at h
    · split_ifs at h
    · cases h
  · simp only [Target.dmem.injEq] at h
    subst h
    refine ⟨by simpa using h₆, by simpa using h₁, by omega, by omega, h₇⟩

/-- A register target is reached by an aligned 32-bit access, and not while it is locked
(10_state.md R31, R32). -/
theorem target_eq_register {busy : Bool} {locked : Reg → Bool} {off w : Nat} {r : Reg}
    (h : target busy locked off w = .register r) :
    w = 4 ∧ regAt off = some r ∧ (busy = true → locked r = false) := by
  unfold target at h
  split_ifs at h with h₁ h₂ h₃ h₄ h₅ h₆ h₇
  split at h
  · next r' hr =>
    split_ifs at h with hb
    simp only [Target.register.injEq] at h
    subst h
    exact ⟨h₃.1, hr, fun hbusy => by simpa [hbusy] using hb⟩
  · cases h

/-- Everything a host read can do (20_memory.md R45, R47). -/
theorem State.hostRead_cases (s : State) (off w : Nat) :
    ∃ v : Word, s.hostRead off w = { s with rdata := v } ∨
      (target s.busy Reg.readLocked off w = .refused ∧
        s.hostRead off w = { s with accerr := true, rdata := 0 }) := by
  unfold State.hostRead
  cases h : target s.busy Reg.readLocked off w with
  | refused => exact ⟨0, .inr ⟨rfl, rfl⟩⟩
  | register r => exact ⟨_, .inl rfl⟩
  | reserved => exact ⟨_, .inl rfl⟩
  | dmem a => exact ⟨_, .inl rfl⟩
  | unmapped => exact ⟨_, .inl rfl⟩

/-- Everything a host write can do (20_memory.md R45, R47). -/
theorem State.hostWrite_cases (s : State) (off w : Nat) (v : Word) :
    s.hostWrite off w v = s ∨
      s.hostWrite off w v = s.setAccerr ∨
      (∃ r, target s.busy Reg.writeLocked off w = .register r ∧
        s.hostWrite off w v = s.writeReg v r) ∨
      ∃ a, target s.busy Reg.writeLocked off w = .dmem a ∧
        s.hostWrite off w v = s.putBytes a (lanes v w) := by
  unfold State.hostWrite
  cases h : target s.busy Reg.writeLocked off w with
  | refused => exact .inr (.inl rfl)
  | register r => exact .inr (.inr (.inl ⟨r, rfl, rfl⟩))
  | reserved => exact .inl rfl
  | dmem a => exact .inr (.inr (.inr ⟨a, rfl, rfl⟩))
  | unmapped => exact .inl rfl

/-- The body of each command's meaning. -/
def bodyOf : Instr → Latch → State → Except Fault BodyResult
  | .nop => nopBody
  | .xor4 => xor4Body
  | .xor12 => xor12Body
  | .xork => xorkBody
  | .rev => revBody
  | .kderive => kderiveBody
  | .pad => padBody
  | .unpad => unpadBody
  | .modexp => modexpBody
  | .encrypt => encryptBody
  | .decrypt => decryptBody

/-- Every meaning is the shared completion step with the body of its command. -/
theorem exec_eq_runCommand (i : Instr) (s : State) : exec i s = runCommand i (bodyOf i) s := by
  cases i <;> rfl

/-- `exec` refuses when no command is in flight (40_command.md R75). -/
theorem exec_idle (i : Instr) {s : State} (h : s.inflight = none) :
    exec i s = .refused .noCommandInFlight := by
  rw [exec_eq_runCommand, runCommand_idle h]

theorem engineTurn_idle {s : State} (h : s.inflight = none) : engineTurn s = .next s := by
  simp [engineTurn, State.fetchWord, h]

theorem engineTurn_decoded {s : State} {l : Latch} {i : Instr} (h : s.inflight = some l)
    (hd : decode l.word = some i) : engineTurn s = exec i s := by
  simp [engineTurn, State.fetchWord, h, completeWord, hd]

theorem engineTurn_illegal {s : State} {l : Latch} (h : s.inflight = some l)
    (hd : decode l.word = none) : engineTurn s = .next (s.failCommand .errOpcode) := by
  simp [engineTurn, State.fetchWord, h, completeWord, hd]

theorem step_engine {s : State} (h : s.arrivals = [] ∨ s.arrivals.head? = some .engine) :
    step s = engineTurn s.pop := by
  rcases h with h | h <;> simp [step, h]

theorem step_access {s : State} {a : Access} (h : s.arrivals.head? = some (.access a)) :
    step s = .next (s.pop.access a) := by
  simp [step, h]

theorem step_hardReset {s : State} (h : s.arrivals.head? = some .hardReset) :
    step s = .next s.pop.hardReset := by
  simp [step, h]

/-- Everything a step can do: the engine idles, completes a decoded command or completes an illegal
word, a host access arrives, or the hard reset does. -/
theorem step_cases (s : State) :
    ((s.arrivals = [] ∨ s.arrivals.head? = some .engine) ∧
      ((s.inflight = none ∧ step s = .next s.pop) ∨
        (∃ l i, s.inflight = some l ∧ decode l.word = some i ∧ step s = exec i s.pop) ∨
        ∃ l, s.inflight = some l ∧ decode l.word = none ∧
          step s = .next (s.pop.failCommand .errOpcode))) ∨
      (∃ a, s.arrivals.head? = some (.access a) ∧ step s = .next (s.pop.access a)) ∨
      (s.arrivals.head? = some .hardReset ∧ step s = .next s.pop.hardReset) := by
  have engine : (s.inflight = none ∧ engineTurn s.pop = .next s.pop) ∨
      (∃ l i, s.inflight = some l ∧ decode l.word = some i ∧ engineTurn s.pop = exec i s.pop) ∨
      ∃ l, s.inflight = some l ∧ decode l.word = none ∧
        engineTurn s.pop = .next (s.pop.failCommand .errOpcode) := by
    cases hl : s.inflight with
    | none => exact .inl ⟨rfl, engineTurn_idle hl⟩
    | some l =>
      cases hd : decode l.word with
      | some i => exact .inr (.inl ⟨l, i, rfl, hd, engineTurn_decoded hl hd⟩)
      | none => exact .inr (.inr ⟨l, rfl, hd, engineTurn_illegal hl hd⟩)
  cases ha : s.arrivals with
  | nil =>
    rw [step_engine (.inl ha)]
    exact .inl ⟨.inl rfl, engine⟩
  | cons e rest =>
    cases e with
    | access a => exact .inr (.inl ⟨a, rfl, step_access (by simp [ha])⟩)
    | engine =>
      rw [step_engine (.inr (by simp [ha]))]
      exact .inl ⟨.inr rfl, engine⟩
    | hardReset => exact .inr (.inr ⟨rfl, step_hardReset (by simp [ha])⟩)

end Sys2Proof.Machine
end

