-- ==== Sys2Proof/Tests/Slice0.lean ====
section
/-! SUPPORT. The model's own tests: the WellFormed smoke, the decoding of words written out bit by bit
from 30_encoding.md R65 and R67, one-step tests with the values of 95_test_vectors.md, and for every
statement with hypotheses a witness that its hypotheses can be met. -/

open Sys2Proof Sys2Proof.Machine

namespace Sys2Proof.Tests

set_option Elab.async false

/-! ### Helpers -/

/-- The latched record of command `i` with the operands given. -/
def latch (i : Instr) (src len dst : Word) : Latch := { word := encode i, src, len, dst }

/-- A core with `bytes` at `l.src` and the command `l` in flight. -/
def busyWith (l : Latch) (bytes : List Byte) : State :=
  { State.reset.putBytes l.src.toNat bytes with inflight := some l }

/-- The same core, the next event being `e`. -/
def arriving (e : Event) (s : State) : State := { s with arrivals := [e] }

/-- The outcome is a next state of which `p` holds. -/
def answers (o : Host.Outcome State Fault Refusal) (p : State → Bool) : Bool :=
  match o with
  | .next t => p t
  | .fault _ => false
  | .refused _ => false

theorem of_answers {o : Host.Outcome State Fault Refusal} {p : State → Bool} (h : answers o p = true) :
    ∃ t, o = .next t ∧ p t = true := by
  cases o with
  | next t => exact ⟨t, rfl, h⟩
  | fault r => cases h
  | refused r => cases h

/-- `n` copies of a byte. -/
def rep (b : Byte) (n : Nat) : List Byte := List.replicate n b

/-- The word `DMEM_SIZE - k`: an address that is `k` bytes before the end of DMEM. -/
def endWord (k : Nat) : Word := BitVec.ofNat 32 (Config.dmemSize - k)

theorem endWord_toNat (k : Nat) : (endWord k).toNat = Config.dmemSize - k := by
  have h := Config.dmemSize_le
  unfold endWord
  rw [BitVec.toNat_ofNat, Nat.mod_eq_of_lt (by omega)]

theorem le_size {n : Nat} (h : n ≤ 256) : n ≤ Config.dmemSize := h.trans Config.dmemSize_ge

theorem past {a b : Word} {x y : Nat} (ha : a.toNat = x) (hb : b.toNat = y)
    (h : Config.dmemSize < x + y) : Config.dmemSize < a.toNat + b.toNat := by rwa [ha, hb]

theorem past_nat {a : Word} {x n m : Nat} (ha : a.toNat = x) (hn : n = m)
    (h : Config.dmemSize < x + m) : Config.dmemSize < a.toNat + n := by rwa [ha, hn]

/-- A command whose checks 2 to 5 report `e` completes with the code of `e`. -/
theorem code_of_check {i : Instr} {src len dst : Word} {e : ErrCode}
    (h : checkOperands i (latch i src len dst) = some e) :
    answers (engineTurn (busyWith (latch i src len dst) [])) (fun t => t.errcode == e.code) = true := by
  have hd : decode (encode i) = some i := by cases i <;> decide
  have hl : (busyWith (latch i src len dst) []).inflight = some (latch i src len dst) := rfl
  rw [engineTurn_decoded hl hd, exec_eq_runCommand, runCommand_checkFail hl h]
  exact beq_self_eq_true e.code

/-- The test modulus `N_T` of 95_test_vectors.md section 2.1. -/
def nT : Nat := (3 * 2 ^ 510 + 761) * (2 ^ 512 - 2 ^ 500 + 137)

/-- The test KeyTable `KT_T` of 95_test_vectors.md section 2.1. -/
def ktT (i : Nat) : Byte := BitVec.ofNat 8 i

/-- A modulus under which 8 has a public transform with a separator: `8^65537 = 2^195` modulo it. -/
def nP : Nat := 2 ^ 1023 + 1

/-! ### WellFormed: each check refuses an ill-formed term -/

theorem test_wellFormed_command : Instr.wellFormed .decrypt = true := by decide
theorem test_wellFormed_refuses_rsvd : wordWellFormed 0x00000130 = false := by decide
theorem test_wellFormed_refuses_06 : wordWellFormed 0x00000006 = false := by decide
theorem test_wellFormed_refuses_12 : wordWellFormed 0x00000012 = false := by decide
theorem test_wellFormed_refuses_2F : wordWellFormed 0x0000002F = false := by decide
theorem test_wellFormed_refuses_FF : wordWellFormed 0x000000FF = false := by decide

/-- Admissible parameters: the test configuration. -/
def paramsT : Config.Params :=
  { dmemSize := 65536, ktLen := 144, modN := nT, encSeed := rep 0x00 16 }

theorem test_params_ok : paramsT.admissible = true := by decide +kernel
/-- The defaults of 00_scope.md R8 are admissible. -/
theorem test_params_defaults : paramsT.withDefaults.admissible = true := by decide +kernel

theorem test_params_refuses_size_not_multiple :
    { paramsT with dmemSize := 258 }.admissible = false := by decide +kernel
theorem test_params_refuses_size_small :
    { paramsT with dmemSize := 252 }.admissible = false := by decide +kernel
theorem test_params_refuses_size_large :
    { paramsT with dmemSize := 2 ^ 24 + 4 }.admissible = false := by decide +kernel
theorem test_params_refuses_short_keyTable :
    { paramsT with ktLen := 132 }.admissible = false := by decide +kernel
theorem test_params_refuses_even_modulus :
    { paramsT with modN := 2 ^ 1023 }.admissible = false := by decide +kernel
theorem test_params_refuses_small_modulus :
    { paramsT with modN := 2 ^ 1023 - 1 }.admissible = false := by decide +kernel
theorem test_params_refuses_large_modulus :
    { paramsT with modN := 2 ^ 1024 + 1 }.admissible = false := by decide +kernel
theorem test_params_refuses_short_seed :
    { paramsT with encSeed := rep 0x00 15 }.admissible = false := by decide +kernel

/-! ### Decoding: RSVD in bits 31:8, then OPCODE in bits 7:0 (R65, R67) -/

theorem test_decode_nop : decode 0b00000000000000000000000000000000 = some .nop := by decide
theorem test_decode_xor4 : decode 0b00000000000000000000000000000001 = some .xor4 := by decide
theorem test_decode_xor12 : decode 0b00000000000000000000000000000010 = some .xor12 := by decide
theorem test_decode_xork : decode 0b00000000000000000000000000000011 = some .xork := by decide
theorem test_decode_rev : decode 0b00000000000000000000000000000100 = some .rev := by decide
theorem test_decode_kderive : decode 0b00000000000000000000000000000101 = some .kderive := by decide
theorem test_decode_pad : decode 0b00000000000000000000000000010000 = some .pad := by decide
theorem test_decode_unpad : decode 0b00000000000000000000000000010001 = some .unpad := by decide
theorem test_decode_modexp : decode 0b00000000000000000000000000100000 = some .modexp := by decide
theorem test_decode_encrypt : decode 0b00000000000000000000000000110000 = some .encrypt := by decide
theorem test_decode_decrypt : decode 0b00000000000000000000000000110001 = some .decrypt := by decide
theorem test_decode_refuses_opcode : decode 0b00000000000000000000000000110010 = none := by decide
theorem test_decode_refuses_rsvd : decode 0b00000000000000000000000100000000 = none := by decide
theorem test_decodeTableWord : decodeTableWord 32 0x31 = some .decrypt := by decide

/-! ### One step each, the expected values from 95_test_vectors.md -/

/-- R80, the example -/
theorem test_nop :
    answers (step (busyWith (latch .nop 0xFFFFFFFF 0xFFFFFFFF 0xFFFFFFFF) ([])))
      (fun t => t.statusWord == 0x00000002 && t.outlen == 0) = true := by decide +kernel

/-- V-X4-7 -/
theorem test_xor4 :
    answers (step (busyWith (latch .xor4 0 7 0x40) ([0x10, 0x11, 0x12, 0x13, 0x14, 0x15, 0x16])))
      (fun t => t.statusWord == 0x00000002 && t.outlen == 7 &&
        t.bytesAt 0x40 7 == [0x9d, 0xb4, 0xb7, 0x9e, 0xb1, 0xb0, 0x9b]) = true := by decide +kernel

/-- V-X12-8 -/
theorem test_xor12 :
    answers (step (busyWith (latch .xor12 0 13 0x40) ([0x10, 0x11, 0x12, 0x13, 0x14, 0x15, 0x16, 0x17, 0x18, 0x19, 0x1a, 0x1b, 0x1c])))
      (fun t => t.bytesAt 0x40 13 ==
        [0x68, 0x69, 0x14, 0xbe, 0x58, 0x26, 0x90, 0x4a, 0x00, 0x55, 0x1b, 0x24, 0x5a]) = true := by decide +kernel

/-- V-XK-3 -/
theorem test_xork :
    answers (step ({ busyWith (latch .xork 0 5 0x40) ([0x10, 0x11, 0x12, 0x13, 0x14]) with kreg := #v[0x84, 0x75, 0x76, 0x47, 0x60, 0x09, 0x72, 0x6b, 0x4c, 0x6d, 0x8e, 0x8f] }))
      (fun t => t.bytesAt 0x40 5 == [0x94, 0x95, 0x67, 0x65, 0x53]) = true := by decide +kernel

/-- V-REV -/
theorem test_rev :
    answers (step (busyWith (latch .rev 0x40 5 0) ([0x01, 0x02, 0x03, 0x04, 0x05])))
      (fun t => t.bytesAt 0 5 == [0x05, 0x04, 0x03, 0x02, 0x01]) = true := by decide +kernel

/-- V-REV, in place -/
theorem test_rev_overlap :
    answers (step (busyWith (latch .rev 0x40 5 0x40) ([0x01, 0x02, 0x03, 0x04, 0x05])))
      (fun t => t.statusWord == 0x00000506) = true := by decide +kernel

/-- V-KD-2 and V-KD-3, under `KT_T`: the second head is symmetric and its key is no palindrome
(log entry 14). -/
theorem test_derive :
    derive ktT [0x00, 0x01, 0x02, 0x03, 0x04, 0x05, 0x06, 0x07, 0x08, 0x09, 0x0a, 0x0b,
        0x0c, 0x0d, 0x0e, 0x0f] =
      #v[0x84, 0x75, 0x76, 0x47, 0x60, 0x09, 0x72, 0x6b, 0x4c, 0x6d, 0x8e, 0x8f] ∧
    derive ktT (rep 0xff 16) =
      #v[0x7b, 0x73, 0x7b, 0x43, 0x7b, 0x73, 0x7b, 0x63, 0x7b, 0x73, 0x7b, 0x83] := by decide +kernel

/-- V-KD, the range error: at 65536 bytes of DMEM, the default of R8, and at every size -/
theorem test_kderive_range :
    (Config.dmemSize = 65536 →
      checkOperands .kderive (latch .kderive 0xFFF8 16 0) = some .errRange) ∧
    checkOperands .kderive (latch .kderive (endWord 8) 16 0) = some .errRange := by
  have h := Config.dmemSize_ge
  refine ⟨fun hs => checkOperands_errRange (by decide) rfl (.inl (past (x := 65528) (y := 16) rfl rfl ?_)),
    checkOperands_errRange (by decide) rfl (.inl (past (y := 16) (endWord_toNat 8) rfl ?_))⟩ <;> omega

/-- V-PAD-2 -/
theorem test_pad :
    answers (step (busyWith (latch .pad 0 1 0x40) ([0x41])))
      (fun t => t.outlen == 128 &&
        t.bytesAt 0x40 2 == [0x00, 0x02] && t.bytesAt 0xBD 3 == [0x02, 0x00, 0x41]) = true := by decide +kernel

/-- V-UNPAD-6 -/
theorem test_unpad :
    answers (step (busyWith (latch .unpad 0 128 0x80) (rep 0x00 125 ++ [0x05, 0x00, 0x41])))
      (fun t => t.statusWord == 0x00000002 && t.outlen == 1 && t.byteAt 0x80 == 0x41) = true := by decide +kernel

/-- V-UNPAD-9 -/
theorem test_unpad_noSeparator :
    answers (step (busyWith (latch .unpad 0 128 0x80) ([0x00] ++ rep 0x02 126 ++ [0x05])))
      (fun t => t.statusWord == 0x00000606 && t.outlen == 0 && t.byteAt 0 == 0x00) = true := by decide +kernel

/-- V-ME-1, whatever the modulus -/
theorem test_modexp :
    answers (step (busyWith (latch .modexp 0x80 128 0) (rep 0x00 128)))
      (fun t => t.outlen == 128 && t.byteAt 0x7F == 0x00) = true := by decide +kernel

/-- V-ME-6, under `N_T` -/
theorem test_modExp : modExp nT (i2osp 2 128) =
    [0x71, 0xcb, 0xe3, 0xcf, 0x7c, 0x77, 0x7d, 0x13, 0x17, 0xe8, 0xb3, 0x64, 0xa6, 0xeb, 0x41, 0x07,
    0xc4, 0x8e, 0x0c, 0x86, 0x2f, 0x46, 0xb8, 0x2b, 0x48, 0x1d, 0x34, 0x15, 0x56, 0xbe, 0x1e, 0xac,
    0x0e, 0x9b, 0xa0, 0xd0, 0x88, 0xd9, 0xd3, 0xe5, 0x7d, 0x71, 0xbc, 0x19, 0x5a, 0xca, 0x09, 0x04,
    0x42, 0xde, 0xb4, 0xc5, 0x9e, 0x1f, 0x7e, 0x9e, 0xf5, 0x9f, 0x06, 0xdd, 0x2c, 0x53, 0xd1, 0x55,
    0xd7, 0x0d, 0x7f, 0x87, 0xda, 0x3e, 0x79, 0x69, 0xa4, 0x9d, 0x1a, 0xba, 0x52, 0xc9, 0x19, 0x0f,
    0x60, 0x54, 0x80, 0x80, 0x73, 0xef, 0x80, 0x8b, 0xd3, 0x8e, 0x70, 0xba, 0xfb, 0xef, 0x9a, 0xda,
    0x52, 0xec, 0x55, 0x88, 0xd2, 0xf5, 0x0b, 0x36, 0x47, 0xd4, 0x69, 0x20, 0xb4, 0xc8, 0x5f, 0x6b,
    0xef, 0xa7, 0x83, 0xb7, 0x0f, 0xa5, 0x06, 0x6f, 0x87, 0x04, 0xe4, 0xa4, 0x60, 0x35, 0x73, 0x24] := by decide +kernel

/-- V-ENC-1, under `N_T`: the empty plaintext -/
theorem test_encryptBytes : encryptBytes nT (rep 0x00 16) [] =
    [0x94, 0x7c, 0xc2, 0x94, 0x1f, 0x16, 0x63, 0xc0, 0xde, 0xe1, 0xb4, 0x69, 0xbd, 0x7a, 0xf5, 0x28,
    0x34, 0xd7, 0xe3, 0x8b, 0x6f, 0x3f, 0x57, 0x7b, 0x16, 0xd2, 0x9b, 0x3b, 0x43, 0x61, 0x6c, 0x9b,
    0x67, 0xac, 0x3e, 0xb5, 0x3d, 0x69, 0xa1, 0x02, 0x12, 0x81, 0xa4, 0x67, 0xd5, 0x0a, 0x3e, 0x80,
    0xd5, 0x6a, 0x01, 0x85, 0xca, 0x98, 0x51, 0x4a, 0x5f, 0xb4, 0x36, 0x8e, 0xce, 0xf9, 0xca, 0x77,
    0x4b, 0x7a, 0x3c, 0xf0, 0xfe, 0x55, 0x85, 0x34, 0x06, 0x07, 0x62, 0x5b, 0xb9, 0xc7, 0x3d, 0x6f,
    0xce, 0xa1, 0x5d, 0xfa, 0xf2, 0xa6, 0x67, 0x5e, 0x08, 0xdf, 0xcb, 0xec, 0xff, 0xae, 0xf3, 0x58,
    0xa9, 0xb6, 0xd7, 0x17, 0xc6, 0x92, 0x77, 0x95, 0x4c, 0x36, 0x28, 0xa8, 0x6d, 0x08, 0x4f, 0xd9,
    0x3c, 0x5f, 0xcf, 0xdb, 0xf4, 0x32, 0x32, 0x7a, 0xf0, 0x4d, 0x72, 0xf6, 0x9c, 0xf2, 0x13, 0xbe] := by decide +kernel

/-- V-ENC-3, under `N_T`: the plaintext "abc" -/
theorem test_encryptBytes_abc : encryptBytes nT (rep 0x00 16) [0x61, 0x62, 0x63] =
    [0x37, 0xe1, 0x87, 0x69, 0x92, 0x3b, 0x86, 0xf5, 0xd9, 0xb1, 0x71, 0xa2, 0x88, 0x0f, 0x2e, 0x4a,
    0xa8, 0x46, 0x6d, 0x08, 0x03, 0xb6, 0xdc, 0xbe, 0x94, 0x19, 0x27, 0x04, 0x8e, 0x50, 0x6d, 0x4c,
    0xd7, 0x39, 0xa5, 0x2b, 0x20, 0x13, 0xa7, 0x43, 0x2c, 0x98, 0x47, 0x97, 0xb7, 0x22, 0x5d, 0x98,
    0xdc, 0x10, 0x61, 0x5e, 0x7f, 0x65, 0x35, 0xeb, 0x29, 0x9e, 0xfa, 0xb6, 0xfc, 0x7f, 0x8e, 0xf7,
    0x0a, 0x73, 0x35, 0x3c, 0xa9, 0x61, 0x8b, 0xe3, 0x4d, 0x60, 0xd8, 0x0a, 0x10, 0xbb, 0x31, 0x8b,
    0xa3, 0x6b, 0x8e, 0x11, 0x14, 0x4b, 0x6a, 0x89, 0x8f, 0xea, 0xe7, 0x4b, 0x59, 0xfa, 0x5e, 0xbf,
    0xf4, 0x02, 0x20, 0x71, 0xf8, 0x1d, 0x2c, 0xf8, 0xc5, 0x81, 0xc8, 0xbd, 0x6f, 0x7e, 0xd1, 0x7e,
    0x2f, 0x0e, 0xcb, 0x3f, 0x80, 0x00, 0x4d, 0x1f, 0xa7, 0xe6, 0x8d, 0xa3, 0x4d, 0xca, 0xb7, 0x3d] := by decide +kernel

/-- S1: the empty plaintext fills one block, whatever the modulus -/
theorem test_encrypt_length :
    answers (step (busyWith (latch .encrypt 0 0 0) ([])))
      (fun t => t.statusWord == 0x00000002 && t.outlen == 128) = true := by decide +kernel

/-- S6, V-DEC-6, whatever the modulus -/
theorem test_decrypt_zeros :
    answers (step (busyWith (latch .decrypt 0 128 0x80) (rep 0x00 128)))
      (fun t => t.statusWord == 0x00000606) = true := by decide +kernel

/-- V-DEC-1, under `N_T` and `KT_T`: the plaintext "hello" -/
theorem test_decryptBytes : (decryptBytes nT ktT
    [0xb5, 0x57, 0x6d, 0xeb, 0xd8, 0x50, 0xcc, 0xdc, 0xb1, 0x7f, 0x2f, 0xca, 0xf8, 0x0c, 0x44, 0x88,
    0xc2, 0x97, 0xce, 0x7a, 0x66, 0x16, 0x8b, 0x67, 0x09, 0x69, 0x35, 0x69, 0xf8, 0xfd, 0x20, 0x7b,
    0x30, 0x7d, 0xc4, 0x01, 0x82, 0x71, 0xdc, 0xcc, 0xfb, 0x7e, 0x11, 0x27, 0x3c, 0x73, 0x7b, 0xe9,
    0x9a, 0x55, 0x96, 0x6b, 0xa6, 0xef, 0x92, 0x6b, 0x6c, 0x01, 0x20, 0x28, 0x0f, 0x2e, 0x7c, 0x63,
    0xc5, 0xb1, 0xa1, 0x2d, 0x6b, 0x9e, 0xd1, 0x9e, 0x5f, 0xe3, 0xa1, 0xb6, 0xb4, 0x5a, 0x20, 0xd0,
    0x0a, 0x90, 0xfc, 0xe4, 0x35, 0x46, 0xa6, 0x23, 0xd0, 0xa3, 0xe1, 0xfa, 0xe9, 0xb6, 0xa4, 0xc2,
    0x61, 0x22, 0xf2, 0x2d, 0xca, 0x4a, 0x99, 0x57, 0x40, 0x00, 0x78, 0x28, 0xda, 0x48, 0xb6, 0x2b,
    0x19, 0xbb, 0x4c, 0x05, 0xea, 0xba, 0xa6, 0x2a, 0x80, 0xd6, 0xd0, 0x21, 0xe2, 0xdd, 0xd6, 0x75]).toOption.map Prod.fst = some [0x68, 0x65, 0x6c, 0x6c, 0x6f] := by decide +kernel

/-- Every command word runs as the first command after reset. -/
theorem test_withFetchWord : ([0x00, 0x01, 0x02, 0x03, 0x04, 0x05, 0x10, 0x11, 0x20, 0x30, 0x31].all
    fun w => answers (step (State.reset.withFetchWord 32 w)) fun t => t.done) = true := by
  decide +kernel

/-! ### Witnesses: the hypotheses of each statement can be met

Each theorem shows concrete states and operands that meet the hypotheses of the statement it is named
for, all together; a statement with several clauses has one for each, at the ends of their ranges. -/

theorem witness_StepRunsDecodedCommand_command :
    let l := latch .xork 0 4 8
    let s := arriving .engine (busyWith l [])
    s.enginesTurn ∧ s.inflight = some l ∧ decode l.word = some .xork ∧ Instr.wellFormed .xork = true :=
  ⟨.inr rfl, rfl, by decide, rfl⟩

theorem witness_StepRunsDecodedCommand_idle :
    State.reset.enginesTurn ∧ State.reset.inflight = none := ⟨.inl rfl, rfl⟩

theorem witness_StepRunsDecodedCommand_access :
    (arriving (.access (rd32 0x00C)) State.reset).arrivals.head? = some (.access (rd32 0x00C)) := rfl

theorem witness_StepRunsDecodedCommand_hardReset :
    (arriving .hardReset State.reset).arrivals.head? = some .hardReset := rfl

theorem witness_StepKeepsInvariant :
    ∃ t, Inv (busyWith (latch .xor4 0 1 2) [0x41]) ∧
      step (busyWith (latch .xor4 0 1 2) [0x41]) = .next t := by
  obtain ⟨t, h, -⟩ := of_answers (o := step (busyWith (latch .xor4 0 1 2) [0x41]))
    (p := fun _ => true) (by decide +kernel)
  refine ⟨t, ⟨by decide, ?_, fun _ => ⟨rfl, rfl, rfl, rfl⟩, ⟨by decide, by decide⟩,
    ⟨fun _ => rfl, Nat.zero_le _⟩, by show 0 < 1; decide⟩, h⟩
  intro c hc
  have h0 : c.1 = 0 := by
    revert c
    decide
  exact h0 ▸ le_size (by decide)

theorem witness_LaunchedCommandEnds : (busyWith (latch .nop 0 0 0) []).busy = true := rfl

theorem witness_HardResetFromAnyState :
    let s := arriving .hardReset (busyWith (latch .xor4 0 1 2) [0x41])
    ∃ t, s.arrivals.head? = some .hardReset ∧ step s = .next t := ⟨_, rfl, rfl⟩

theorem witness_NopResult :
    (busyWith (latch .nop 0xFFFFFFFF 0xFFFFFFFF 0xFFFFFFFF) []).inflight =
      some (latch .nop 0xFFFFFFFF 0xFFFFFFFF 0xFFFFFFFF) := rfl

/-- How `Latch.fits` is shown: the ranges are in DMEM, and one ends before the other or one is empty. -/
theorem fits_of {l : Latch} {n a b c m : Nat} (ha : l.src.toNat = a) (hb : l.len.toNat = b)
    (hc : l.dst.toNat = c) (hn : n = m)
    (h : a + b ≤ Config.dmemSize ∧ (m = 0 ∨ c + m ≤ Config.dmemSize) ∧
      (a + b ≤ c ∨ c + m ≤ a ∨ b = 0 ∨ m = 0)) : l.fits n := by
  subst ha hb hc hn
  exact ⟨h.1, h.2.1, by rintro ⟨h1, h2, h3, h4⟩; omega⟩

/-- Also the witness of XorkResult and RevResult, for the word of XORK or REV. -/
theorem witness_MaskCommandsResult :
    let l := latch .xor4 0 128 (endWord 128)
    (busyWith l [0x41]).inflight = some l ∧ l.fits l.len.toNat :=
  ⟨rfl, fits_of (a := 0) (b := 128) (m := 128) rfl rfl (endWord_toNat 128) rfl (by have := Config.dmemSize_ge; omega)⟩

theorem witness_MaskCommandsResult_empty :
    let l := latch .xor12 (endWord 0) 0 0xFFFFFFFF
    (busyWith l []).inflight = some l ∧ l.fits l.len.toNat :=
  ⟨rfl, fits_of (b := 0) (c := 4294967295) (m := 0) (endWord_toNat 0) rfl rfl rfl (by have := Config.dmemSize_ge; omega)⟩

theorem witness_XorkResult :
    let l := latch .xork (endWord 16) 16 0
    (busyWith l []).inflight = some l ∧ l.fits l.len.toNat :=
  ⟨rfl, fits_of (b := 16) (c := 0) (m := 16) (endWord_toNat 16) rfl rfl rfl (by have := Config.dmemSize_ge; omega)⟩

theorem witness_RevResult :
    let l := latch .rev 0 4 4
    (busyWith l []).inflight = some l ∧ l.fits l.len.toNat :=
  ⟨rfl, fits_of (a := 0) (b := 4) (c := 4) (m := 4) rfl rfl rfl rfl (by have := Config.dmemSize_ge; omega)⟩

theorem witness_KderiveResult :
    let l := latch .kderive (endWord 16) 16 0xFFFFFFFF
    (busyWith l []).inflight = some l ∧ l.len.toNat = 16 ∧
      l.src.toNat + 16 ≤ Config.dmemSize :=
  ⟨rfl, by decide, (congrArg (· + 16) (endWord_toNat 16)).trans_le
    (by have := Config.dmemSize_ge; show Config.dmemSize - 16 + 16 ≤ _; omega)⟩

theorem witness_PadResult :
    let l := latch .pad 0 117 (endWord 128)
    (busyWith l []).inflight = some l ∧ l.len.toNat ≤ 117 ∧ l.fits 128 :=
  ⟨rfl, by decide, fits_of (a := 0) (b := 117) (m := 128) rfl rfl (endWord_toNat 128) rfl (by have := Config.dmemSize_ge; omega)⟩

theorem witness_PadResult_empty :
    let l := latch .pad 0 0 0
    (busyWith l []).inflight = some l ∧ l.len.toNat ≤ 117 ∧ l.fits 128 :=
  ⟨rfl, by decide, fits_of (a := 0) (b := 0) (c := 0) (m := 128) rfl rfl rfl rfl (by have := Config.dmemSize_ge; omega)⟩

theorem witness_UnpadResult_separator :
    let l := latch .unpad 0 128 (endWord 126)
    let s := busyWith l ([0x7f, 0x00] ++ rep 0x11 126)
    s.inflight = some l ∧ l.len.toNat = 128 ∧ l.fits 126 ∧
      s.sourceBytes l = List.replicate 0 0x00 ++ [0x7f] ++ [0x00] ++ rep 0x11 126 ∧
      ([0x7f] : List Byte) ≠ [] ∧ ∀ b ∈ ([0x7f] : List Byte), b ≠ 0x00 :=
  ⟨rfl, by decide, fits_of (a := 0) (b := 128) (m := 126) rfl rfl (endWord_toNat 126) rfl (by have := Config.dmemSize_ge; omega),
    by decide +kernel, by decide, by decide⟩

theorem witness_UnpadResult_noSeparator :
    let l := latch .unpad 0 128 128
    let s := busyWith l (rep 0x00 128)
    s.inflight = some l ∧ l.len.toNat = 128 ∧ l.fits 126 ∧
      s.sourceBytes l = List.replicate 128 0x00 ++ [] ∧ ∀ b ∈ ([] : List Byte), b ≠ 0x00 :=
  ⟨rfl, by decide, fits_of (a := 0) (b := 128) (c := 128) (m := 126) rfl rfl rfl rfl (by have := Config.dmemSize_ge; omega),
    by decide +kernel, by decide⟩

theorem witness_ModexpResult :
    let l := latch .modexp (endWord 128) 128 0
    (busyWith l []).inflight = some l ∧ l.len.toNat = 128 ∧ l.fits 128 :=
  ⟨rfl, by decide, fits_of (b := 128) (c := 0) (m := 128) (endWord_toNat 128) rfl rfl rfl (by have := Config.dmemSize_ge; omega)⟩

theorem witness_EncryptResult :
    let l := latch .encrypt 0 101 (endWord 128)
    (busyWith l []).inflight = some l ∧ l.fits (128 * ceilDiv (16 + l.len.toNat) 117) :=
  ⟨rfl, fits_of (a := 0) (b := 101) (m := 128) rfl rfl (endWord_toNat 128) rfl (by have := Config.dmemSize_ge; omega)⟩

theorem witness_EncryptResult_empty :
    let l := latch .encrypt (endWord 0) 0 0
    (busyWith l []).inflight = some l ∧ l.fits (128 * ceilDiv (16 + l.len.toNat) 117) :=
  ⟨rfl, fits_of (b := 0) (c := 0) (m := 128) (endWord_toNat 0) rfl rfl rfl (by have := Config.dmemSize_ge; omega)⟩

/-- The state of a DECRYPT of one block, the integer 8. -/
def decryptOne : State := busyWith (latch .decrypt 0 128 128) (rep 0x00 127 ++ [0x08])

theorem witness_DecryptResult :
    let l := latch .decrypt 0 128 128
    decryptOne.inflight = some l ∧ l.len.toNat % 128 = 0 ∧
      l.fits (126 * (l.len.toNat / 128) - 16) :=
  ⟨rfl, by decide, fits_of (a := 0) (b := 128) (c := 128) (m := 110) rfl rfl rfl rfl (by have := Config.dmemSize_ge; omega)⟩

/-- The successful case under the modulus `nP`, one of the values the opaque modulus may have. -/
theorem witness_DecryptResult_plaintext (h : Config.modN = nP) :
    accumulate Config.modN (decryptOne.sourceBytes (latch .decrypt 0 128 128)) =
      .ok (rep 0x00 23) ∧ ¬(rep 0x00 23).length < 16 := by
  rw [h]
  exact ⟨by decide +kernel, by decide⟩

theorem witness_DecryptResult_short :
    let l := latch .decrypt 0 0 0
    (busyWith l []).inflight = some l ∧ l.len.toNat % 128 = 0 ∧
      l.fits (126 * (l.len.toNat / 128) - 16) ∧
      accumulate Config.modN ((busyWith l []).sourceBytes l) = .ok [] ∧ ([] : List Byte).length < 16 :=
  ⟨rfl, by decide, fits_of (a := 0) (b := 0) (c := 0) (m := 0) rfl rfl rfl rfl (by have := Config.dmemSize_ge; omega), rfl, by decide⟩

theorem witness_DecryptResult_noSeparator :
    accumulate Config.modN ((busyWith (latch .decrypt 0 128 128) (rep 0x00 128)).sourceBytes
      (latch .decrypt 0 128 128)) = .error .errNosep := by decide +kernel

theorem witness_IllegalLengthCompletes :
    ∀ p ∈ [(Instr.kderive, 15), (.kderive, 17), (.pad, 118), (.unpad, 127), (.unpad, 129),
        (.modexp, 127), (.modexp, 0), (.decrypt, 127), (.decrypt, 129)],
      (busyWith (latch p.1 0 p.2 0) []).inflight = some (latch p.1 0 p.2 0) ∧
        lengthIllegal p.1 (latch p.1 0 p.2 0).len.toNat := by
  unfold lengthIllegal
  exact fun p hp => ⟨rfl, by revert p; decide⟩

theorem witness_RangeErrorCompletes_source :
    let l := latch .rev (endWord 1) 2 0
    (busyWith l []).inflight = some l ∧ Instr.rev ≠ .nop ∧ ¬lengthIllegal .rev l.len.toNat ∧
      Config.dmemSize < l.src.toNat + l.len.toNat :=
  ⟨rfl, by decide, by unfold lengthIllegal; decide,
    past (y := 2) (endWord_toNat 1) rfl (by have := Config.dmemSize_ge; omega)⟩

theorem witness_RangeErrorCompletes_destination :
    let l := latch .pad 0 0 (endWord 127)
    (busyWith l []).inflight = some l ∧ Instr.pad ≠ .nop ∧ ¬lengthIllegal .pad l.len.toNat ∧
      outMax .pad l.len.toNat ≠ 0 ∧ Config.dmemSize < l.dst.toNat + outMax .pad l.len.toNat :=
  ⟨rfl, by decide, by unfold lengthIllegal; decide, by decide,
    past_nat (m := 128) (endWord_toNat 127) rfl (by have := Config.dmemSize_ge; omega)⟩

theorem witness_OverlapErrorCompletes :
    let l := latch .rev 0 16 15
    (busyWith l []).inflight = some l ∧ ¬lengthIllegal .rev l.len.toNat ∧
      l.src.toNat + l.len.toNat ≤ Config.dmemSize ∧
      l.dst.toNat + outMax .rev l.len.toNat ≤ Config.dmemSize ∧
      ∃ a, inRange l.src.toNat l.len.toNat a ∧ inRange l.dst.toNat (outMax .rev l.len.toNat) a :=
  ⟨rfl, by unfold lengthIllegal; decide, le_size (by decide), le_size (by decide), 15, by unfold inRange; decide,
    by unfold inRange; decide⟩

theorem witness_IllegalWordCompletes :
    ∀ w ∈ [0x06, 0x0F, 0x12, 0x1F, 0x21, 0x2F, 0x32, 0xFF, 0x100, 0xFFFFFF31],
      let l : Latch := { word := BitVec.ofNat 32 w, src := 0, len := 0, dst := 0 }
      (busyWith l []).enginesTurn ∧ (busyWith l []).inflight = some l ∧
        (l.word.extractLsb' 8 24 ≠ 0 ∨
          (let op := (l.word.extractLsb' 0 8).toNat
           (0x06 ≤ op ∧ op ≤ 0x0F) ∨ (0x12 ≤ op ∧ op ≤ 0x1F) ∨ (0x21 ≤ op ∧ op ≤ 0x2F) ∨
             (0x32 ≤ op ∧ op ≤ 0xFF))) :=
  fun w hw => ⟨.inl rfl, rfl, by revert w; decide +kernel⟩

/-- One state for each code of ErrorPriority: the engine's turn answers, with that code. -/
theorem witness_ErrorPriority :
    ∀ p ∈ [(0x06, 0, 0, 0, 0x01),
        (0x00, 0, 0, 0, 0x00), (0x05, 0, 15, 0, 0x02), (0x31, 0xFFFFFFFF, 127, 0, 0x03),
        (0x04, 8, 16, 0, 0x05),
        (0x04, 0, 2, 2, 0x00), (0x31, 0, 0, 0, 0x07)],
      let l : Latch := { word := BitVec.ofNat 32 p.1, src := BitVec.ofNat 32 p.2.1,
                         len := BitVec.ofNat 32 p.2.2.1, dst := BitVec.ofNat 32 p.2.2.2.1 }
      let s := busyWith l []
      s.inflight = some l ∧ s.err = false ∧ s.errcode = 0 ∧
        answers (engineTurn s) (fun t => t.errcode.toNat == p.2.2.2.2) = true :=
  fun p hp => ⟨rfl, rfl, rfl, by revert p; decide +kernel⟩

/-- ErrorPriority, check 4: a source range and a destination range that pass the end of DMEM. -/
theorem witness_ErrorPriority_range :
    answers (engineTurn (busyWith (latch .kderive (endWord 15) 16 0) []))
        (fun t => t.errcode == 0x04) = true ∧
      answers (engineTurn (busyWith (latch .pad 0 0 (endWord 127)) []))
        (fun t => t.errcode == 0x04) = true := by
  have h := Config.dmemSize_ge
  exact ⟨code_of_check (e := .errRange) (checkOperands_errRange (by decide) rfl
      (.inl (past (y := 16) (endWord_toNat 15) rfl (by omega)))),
    code_of_check (e := .errRange) (checkOperands_errRange (by decide) rfl
      (.inr ⟨by decide, past_nat (m := 128) (endWord_toNat 127) rfl (by omega)⟩))⟩

theorem witness_ErrorPriority_noSeparator :
    let l := latch .unpad 0 128 128
    let s := busyWith l (rep 0x00 128)
    s.inflight = some l ∧ s.err = false ∧ s.errcode = 0 ∧
      answers (engineTurn s) (fun t => t.errcode == 0x06) = true :=
  ⟨rfl, rfl, rfl, by decide +kernel⟩

/-- For a check (ERR_OVERLAP) and for the body (ERR_SHORT). -/
theorem witness_ErrorEffects :
    ∀ l ∈ [latch .rev 8 16 0, latch .decrypt 0 0 0],
      let s := busyWith l []
      s.inflight = some l ∧ s.err = false ∧ s.outlen = 0 ∧
        ∃ t, engineTurn s = .next t ∧ t.err = true :=
  fun l hl => ⟨rfl, rfl, rfl, of_answers (p := fun t => t.err) (by revert l; decide +kernel)⟩

theorem witness_EveryCompletionSetsDone :
    let s := busyWith (latch .nop 0 0 0) []
    ∃ t, s.busy = true ∧ engineTurn s = .next t := ⟨_, rfl, rfl⟩

theorem witness_CommandsWriteWithinOutmax :
    let l := latch .rev 0 1 2
    ∃ t, (busyWith l [0x41]).inflight = some l ∧ exec .rev (busyWith l [0x41]) = .next t ∧
      ¬inRange l.dst.toNat (outMax .rev l.len.toNat) 3 ∧ (busyWith l [0x41]).err = false ∧
      t.err = false := by
  obtain ⟨t, h, he⟩ := of_answers (o := exec .rev (busyWith (latch .rev 0 1 2) [0x41]))
    (p := fun t => !t.err) (by decide +kernel)
  exact ⟨t, rfl, h, by unfold inRange; decide, rfl, by simpa using he⟩

theorem witness_EngineReadsLatchedOperands :
    ∃ t, exec .nop (busyWith (latch .nop 0 0 0) []) = .next t := ⟨_, rfl⟩

/-- KDERIVE changes a KREG that differs from the derived key. -/
theorem witness_KregWriters_command :
    let l := latch .kderive 0 16 0
    let s := { busyWith l [] with
      kreg := (derive Config.kt ((busyWith l []).bytesAt l.src.toNat 16)).map (~~~ ·) }
    ∃ t, step s = .next t ∧ t.kreg ≠ s.kreg := by
  intro l s
  have hc : checkOperands .kderive l = none := by decide +kernel
  have hb : bodyOf .kderive l s.pop =
      .ok (.ok none (some (derive Config.kt ((busyWith l []).bytesAt l.src.toNat 16)))) := by
    show s.pop.withSource l.src.toNat 16 (fun head => .ok none (some (derive Config.kt head))) = _
    exact State.withSource_of_le _ (le_size (n := 0 + 16) (by decide))
  have hx := (exec_eq_runCommand .kderive s.pop).trans
    (runCommand_ok rfl hc hb (State.succeed_eq_ok.2 ⟨.inl rfl, rfl⟩))
  refine ⟨_, (step_engine (.inl rfl)).trans ((engineTurn_decoded (l := l) rfl (by decide)).trans hx),
    fun h => ?_⟩
  have h0 := congrArg (fun k : Key => k[0]) h
  simp only [s, Option.getD_some, Vector.getElem_map] at h0
  exact (by decide : ∀ x : Byte, x ≠ ~~~x) _ h0

theorem witness_KregWriters_host :
    ∀ off ∈ [0x030, 0x034, 0x038],
      let s := arriving (.access (wr32 off 1)) State.reset
      ∃ t, step s = .next t ∧ t.kreg ≠ s.kreg := by
  intro off h
  obtain ⟨t, ht, hk⟩ := of_answers (o := step (arriving (.access (wr32 off 1)) State.reset))
    (p := fun t => t.kreg != State.reset.kreg) (by revert off; decide +kernel)
  exact ⟨t, ht, bne_iff_ne.1 hk⟩

/-- The soft reset and the hard reset clear a KREG that is not zero. -/
theorem witness_KregWriters_reset :
    ∀ e ∈ [Event.access (wr32 0x010 0x00000002), .hardReset],
      let s := { arriving e State.reset with kreg := Vector.replicate 12 0x01 }
      ∃ t, step s = .next t ∧ t.kreg ≠ s.kreg := by
  intro e h
  obtain ⟨t, ht, hk⟩ := of_answers
    (o := step { arriving e State.reset with kreg := Vector.replicate 12 0x01 })
    (p := fun t => t.kreg != Vector.replicate 12 0x01) (by revert e; decide +kernel)
  exact ⟨t, ht, bne_iff_ne.1 hk⟩

theorem witness_CommandDataStableWhileBusy :
    let s := busyWith (latch .nop 0 0 0) []
    s.busy = true ∧ (s.access (wr32 0x01000000 0xFFFFFFFF)).busy = true := by decide +kernel

/-- Also the witness of OperandRegistersReadBack and of KeyRegisterLanes: an idle core. -/
theorem witness_LaunchEffect : State.reset.busy = false := rfl

theorem witness_BusyLaunchRefused : (busyWith (latch .nop 0 0 0) []).busy = true := rfl

theorem witness_LockedWhileBusy :
    (busyWith (latch .nop 0 0 0) []).busy = true ∧
      (∀ off ∈ [0x014, 0x038], off < 0x100 ∧ off % 4 = 0 ∧ off ∈ lockedOffsets) ∧
      (∀ off ∈ [0x000, 0x00C, 0x010, 0x024, 0x02C, 0x0FC],
        off < 0x100 ∧ off % 4 = 0 ∧ off ∉ lockedOffsets ∧ off ≠ 0x008) := by decide

theorem witness_RefusalCausesAndEffects_refused :
    refusalCause false lockedOffsets 0x000 1 ∧ refusalCause false lockedOffsets 0x0FF 4 ∧
      refusalCause true lockedOffsets 0x014 4 ∧ refusalCause true lockedOffsets 0x038 4 ∧
      refusalCause true (0x008 :: lockedOffsets) 0x008 4 ∧
      refusalCause false lockedOffsets (0x01000000 + (Config.dmemSize - 1)) 2 ∧
      refusalCause true lockedOffsets 0x01000000 1 ∧
      refusalCause false lockedOffsets 0x00000100 3 := by
  have h := Config.dmemSize_ge
  have hm := Config.dmemSize_mod
  exact ⟨.inl (by decide), .inl (by decide), .inr (.inl (by decide)), .inr (.inl (by decide)),
    .inr (.inl (by decide)), .inr (.inr (.inl ⟨⟨by omega, by omega⟩, by omega⟩)),
    .inr (.inr (.inr (.inl ⟨⟨by omega, by omega⟩, rfl⟩))), .inr (.inr (.inr (.inr (by decide))))⟩

theorem accepted {busy : Bool} {locked : List Nat} {off w : Nat} (h1 : off < 0x100 → w = 4 ∧ off % 4 = 0)
    (h2 : busy = true → off ∉ locked ∧ off < 0x01000000) (h3 : (off - 0x01000000) % w = 0)
    (h4 : w = 1 ∨ w = 2 ∨ w = 4) : ¬refusalCause busy locked off w := by
  rintro (h | h | h | h | h)
  · exact h.2 (h1 h.1)
  · exact (h2 h.1).1 h.2.2
  · exact h.2 h3
  · exact absurd h.1.1 (Nat.not_le.2 (h2 h.2).2)
  · exact h h4

theorem witness_RefusalCausesAndEffects_accepted :
    ¬refusalCause false lockedOffsets 0x0FC 4 ∧ ¬refusalCause false lockedOffsets 0x100 1 ∧
      ¬refusalCause false lockedOffsets 0x01000000 4 ∧
      ¬refusalCause false lockedOffsets (0x01000000 + (Config.dmemSize - 1)) 1 ∧
      ¬refusalCause false lockedOffsets (0x01000000 + Config.dmemSize) 2 ∧ ¬refusalCause true lockedOffsets 0x008 4 ∧
      ¬refusalCause true (0x008 :: lockedOffsets) 0x00C 4 := by
  have hm := Config.dmemSize_mod
  refine ⟨?_, ?_, ?_, ?_, ?_, ?_, ?_⟩ <;>
    exact accepted (by omega) (by decide) (by omega) (by decide)

theorem witness_DmemAccess :
    (∀ w, w = 1 ∨ w = 2 ∨ w = 4 →
      (0 % w = 0 ∧ 0 + w ≤ Config.dmemSize) ∧
      (Config.dmemSize - w) % w = 0 ∧ Config.dmemSize - w < Config.dmemSize ∧
        Config.dmemSize - w + w ≤ Config.dmemSize) ∧
      State.reset.busy = false ∧ ¬inRange (Config.dmemSize - 4) 4 (Config.dmemSize - 5) ∧
      Config.dmemSize ≤ Config.dmemSize ∧ Config.dmemSize - 1 < Config.dmemSize ∧
      (Config.dmemSize - 1) % 2 ≠ 0 ∧ (busyWith (latch .nop 0 0 0) []).busy = true := by
  have h := Config.dmemSize_ge
  have hm := Config.dmemSize_mod
  refine ⟨?_, rfl, fun hr => ?_, le_rfl, by omega, by omega, rfl⟩
  · rintro w (rfl | rfl | rfl) <;> omega
  · have := hr.1
    omega

theorem witness_ReservedAndUnmappedSilent :
    (∀ off ∈ [0x028, 0x02C, 0x03C, 0x0FC], off < 0x100 ∧ off % 4 = 0 ∧
        off ∉ [0x000, 0x004, 0x008, 0x00C, 0x010, 0x014, 0x018, 0x01C, 0x020, 0x024, 0x030, 0x034,
          0x038]) ∧
      (∀ off ∈ [0x100, 0x00FFFFFF], 0x100 ≤ off ∧ off ≤ 0x00FFFFFF) ∧
      0x01000000 + Config.dmemSize ≤ 0x01000000 + Config.dmemSize :=
  ⟨by decide, by decide, le_rfl⟩

theorem witness_ConstantRegisters : (endWord 0).toNat = Config.dmemSize :=
  (endWord_toNat 0).trans (Nat.sub_zero _)

theorem witness_KeyRegisterLanes : State.reset.busy = false := rfl

theorem witness_OperandRegistersReadBack : State.reset.busy = false := rfl

theorem witness_StatusAndCtrlFields : (0x00000001 : Word).getLsbD 1 = false := by decide

theorem witness_SoftReset_idle :
    (0x00000003 : Word).getLsbD 1 = true ∧ State.reset.inflight = none := ⟨by decide, rfl⟩

/-- A busy core: addresses at both ends of the destination range, and the addresses next to them. -/
theorem witness_SoftReset_busy :
    let l := latch .xor4 0 4 8
    (0x00000002 : Word).getLsbD 1 = true ∧ (busyWith l []).inflight = some l ∧
      (∀ a ∈ [8, 11], decode l.word = some .xor4 ∧ checkOperands .xor4 l = none ∧
        inRange l.dst.toNat (outMax .xor4 l.len.toNat) a) ∧
      ∀ a ∈ [7, 12], ¬∃ i, decode l.word = some i ∧ checkOperands i l = none ∧
        inRange l.dst.toNat (outMax i l.len.toNat) a := by
  refine ⟨by decide, rfl, by unfold inRange; decide +kernel, ?_⟩
  rintro a ha ⟨i, hi, -, hr⟩
  have : i = .xor4 := by
    have h : decode (latch .xor4 0 4 8).word = some .xor4 := by decide
    exact Option.some.inj (hi.symm.trans h)
  subst this
  revert a
  unfold inRange
  decide

/-- A command whose checks fail has no destination range. -/
theorem witness_SoftReset_checksFail :
    checkOperands .xor4 (latch .xor4 0 4 3) = some .errOverlap := by decide +kernel

theorem witness_KeystreamPositions :
    ([0, 0, 0, 0] : List Byte).length = 4 ∧ Config.mask12.length = 12 ∧
      ∀ j ∈ [0, 2, 3, 6], j < (rep 0x00 7).length := by decide

theorem witness_XorAlignInvolution : Config.mask4.length = 4 ∧ Config.mask12.length = 12 := by decide

theorem witness_RevInvolution : 0 < (rep 0x00 3).length ∧ 2 < (rep 0x00 3).length := by decide

theorem witness_DeriveReadsTwelveEntries :
    (∀ i < 12, ktT (12 * i) = (fun j => if j % 12 = 0 then ktT j else 0x00) (12 * i)) ∧
      ∀ i < 12, (rep 0x00 16).getD i 0 = (rep 0x00 12 ++ rep 0xee 4).getD i 0 := by decide +kernel

theorem witness_DerivePalindromeAndInverse : (rep 0x00 16).length = 16 := by decide

theorem witness_PadLayout :
    ([] : List Byte).length ≤ 117 ∧ (rep 0x00 117).length ≤ 117 ∧ 1 ≤ 126 - (rep 0x00 117).length ∧
      2 ^ 1023 ≤ nT := by decide +kernel

theorem witness_UnpadInvertsPad : (rep 0x00 117).length ≤ 117 := by decide

theorem witness_UnpadSearch :
    (List.replicate 1 0x00 ++ [0x01] ++ [0x00] ++ rep 0x00 125 : List Byte).length = 128 ∧
      ([0x01] : List Byte) ≠ [] ∧ (∀ x ∈ ([0x01] : List Byte), x ≠ 0x00) ∧
      (List.replicate 0 0x00 ++ rep 0x01 128 : List Byte).length = 128 ∧
      (∀ x ∈ rep 0x01 128, x ≠ 0x00) ∧
      unpadBlock ([0x7f, 0x00] ++ rep 0x11 126) = .ok (rep 0x11 126) := by decide +kernel

/-- Also the witness of ReductionMethodsExact. -/
theorem witness_ModExpFixedPoints :
    2 ^ 1023 ≤ nT ∧ nT < 2 ^ 1024 ∧ nT % 2 = 1 ∧ (i2osp nT 128).length = 128 := by decide +kernel

theorem witness_ReductionMethodsExact :
    2 ^ 1023 ≤ nT ∧ nT < 2 ^ 1024 ∧ nT % 2 = 1 ∧ 2 ^ 1024 - 1 < 2 ^ 1024 ∧
      (rep 0xff 128).length = 128 := by decide +kernel

theorem witness_ChunksPartition :
    1 ≤ (rep 0x00 1).length ∧ 1 ≤ (rep 0x00 118).length ∧ 0 + 1 < (chunks (rep 0x00 118)).length := by
  decide +kernel

theorem witness_EncryptBlocks :
    Config.encSeed.length = 16 ∧ 0 < ceilDiv (16 + (rep 0x00 101).length) 117 ∧
      1 < ceilDiv (16 + (rep 0x00 102).length) 117 := by decide

theorem witness_XorDecInverts : Config.mask4.length = 4 ∧ Config.mask12.length = 12 := by decide

/-- Two blocks that strip under the modulus `nP`, and one that does not after one that does. -/
theorem witness_AccumulatorOfBlocks :
    let c := i2osp 8 128 ++ i2osp 2 128
    let us := [rep 0x00 23, rep 0x00 7]
    us.length = c.length / 128 ∧
      (∀ k < us.length, unpadBlock (modExp nP (slice c (128 * k) (128 * k + 128))) =
        .ok (us.getD k [])) ∧
      1 < (i2osp 8 128 ++ rep 0x00 128).length / 128 ∧
      unpadBlock (modExp nP (slice (i2osp 8 128 ++ rep 0x00 128) 0 128)) = .ok (rep 0x00 23) ∧
      unpadBlock (modExp nP (slice (i2osp 8 128 ++ rep 0x00 128) 128 256)) =
        .error .errNosep := by decide +kernel

/-! A modulus with a private exponent: a product of small primes, each minus one coprime to 65537. -/

/-- Odd primes. -/
def smallPrimes : List Nat :=
  [3, 5, 7, 743, 13, 17, 19, 23, 29, 31, 37, 41, 43, 47, 53, 59,
    61, 67, 71, 73, 79, 83, 89, 97, 101, 103, 107, 109, 113, 127, 131, 137,
    139, 149, 151, 157, 163, 167, 173, 179, 181, 191, 193, 197, 199, 211, 223, 227,
    229, 233, 239, 241, 251, 257, 263, 269, 271, 277, 281, 283, 293, 307, 311, 313,
    317] ++
  [331, 337, 347, 349, 353, 359, 367, 373, 379, 383, 389, 397, 401, 409, 419, 421,
    431, 433, 439, 443, 449, 457, 461, 463, 467, 479, 487, 491, 499, 503, 509, 521,
    523, 541, 547, 557, 563, 569, 571, 577, 587, 593, 599, 601, 607, 613, 617, 619,
    631, 641, 643, 647, 653, 659, 661, 673, 677, 683, 691, 701, 709, 719, 727, 733,
    739]

/-- Their product, a modulus in `[2^1023, 2^1024)`. -/
def nSmall : Nat := smallPrimes.foldr (· * ·) 1

/-- The private exponent of `nSmall`. -/
def dSmall : Nat :=
  0x3b93ed2b25e8a86bc9925a5a1aff7075a86cba63a7b8823215ef4d78d537e0e4f6001

/-- `p` is a prime by trial division, and `e` is 1 modulo `p - 1`. -/
def goodPrime (e p : Nat) : Bool :=
  decide (2 ≤ p) && decide (p < 28 * 28) &&
    (List.range 28).all (fun m => m < 2 || p < m * m || p % m != 0) && e % (p - 1) == 1 % (p - 1)

theorem smallPrimes_good : smallPrimes.all (goodPrime (0x10001 * dSmall)) = true := by decide +kernel

theorem smallPrimes_sorted : smallPrimes.Pairwise (· ≠ ·) := by decide +kernel

/-- Fermat's little theorem for an exponent that is 1 modulo `p - 1`. -/
theorem pow_modEq_self {p e : Nat} (hp : p.Prime) (he : e % (p - 1) = 1 % (p - 1)) (h0 : e ≠ 0)
    (x : Nat) : x ^ e ≡ x [MOD p] := by
  have := Fact.mk hp
  rw [← ZMod.natCast_eq_natCast_iff]
  push_cast
  by_cases hx : (x : ZMod p) = 0
  · rw [hx, zero_pow h0]
  · have h1 : (p - 1) ∣ e - 1 := (Nat.modEq_iff_dvd' (Nat.one_le_iff_ne_zero.2 h0)).1 he.symm
    obtain ⟨k, hk⟩ := h1
    have : e = (p - 1) * k + 1 := by omega
    rw [this, pow_succ, pow_mul, ZMod.pow_card_sub_one_eq_one hx, one_pow, one_mul]

theorem prime_of_trial {p : Nat} (h2 : 2 ≤ p) (h28 : p < 28 * 28)
    (h : ((List.range 28).all fun m => m < 2 || p < m * m || p % m != 0) = true) : p.Prime := by
  rw [Nat.prime_def_le_sqrt]
  refine ⟨h2, fun m hm hs hd => ?_⟩
  have hmm : m * m ≤ p := Nat.le_sqrt.1 hs
  have hlt : m < 28 := by
    by_contra hc
    have := Nat.mul_le_mul (Nat.not_lt.1 hc) (Nat.not_lt.1 hc)
    omega
  have hz := List.all_eq_true.1 h m (List.mem_range.2 hlt)
  simp [Nat.mod_eq_zero_of_dvd hd] at hz
  omega

/-- A congruence modulo distinct primes holds modulo their product. -/
theorem modEq_foldr {x y : Nat} : ∀ {ps : List Nat}, (∀ p ∈ ps, p.Prime) → ps.Pairwise (· ≠ ·) →
    (∀ p ∈ ps, x ≡ y [MOD p]) → x ≡ y [MOD ps.foldr (· * ·) 1]
  | [], _, _, _ => by simp [Nat.modEq_one]
  | p :: ps, hp, hn, h => by
    rw [List.foldr_cons]
    have hc : ∀ qs : List Nat, (∀ q ∈ qs, q.Prime ∧ p ≠ q) →
        Nat.Coprime p (qs.foldr (· * ·) 1) := by
      intro qs
      induction qs with
      | nil => intro _; simp
      | cons q qs ih =>
        intro hq
        rw [List.foldr_cons]
        refine Nat.Coprime.mul_right ?_ (ih fun r hr => hq r (List.mem_cons_of_mem _ hr))
        exact (Nat.coprime_primes (hp p (by simp)) (hq q (by simp)).1).2 (hq q (by simp)).2
    refine (Nat.modEq_and_modEq_iff_modEq_mul (hc ps fun q hq => ⟨hp q (by simp [hq]), ?_⟩)).1
      ⟨h p (by simp), modEq_foldr (fun q hq => hp q (by simp [hq])) (List.pairwise_cons.1 hn).2
        fun q hq => h q (by simp [hq])⟩
    exact (List.pairwise_cons.1 hn).1 q hq

theorem pow_mod_self {e : Nat} {ps : List Nat} (h0 : e ≠ 0) (hg : ps.all (goodPrime e) = true)
    (hn : ps.Pairwise (· ≠ ·)) {x : Nat} (hx : x < ps.foldr (· * ·) 1) :
    x ^ e % ps.foldr (· * ·) 1 = x := by
  have hp : ∀ p ∈ ps, p.Prime ∧ e % (p - 1) = 1 % (p - 1) := by
    intro p hp
    have h := List.all_eq_true.1 hg p hp
    simp only [goodPrime, Bool.and_eq_true, decide_eq_true_eq, beq_iff_eq] at h
    exact ⟨prime_of_trial h.1.1.1 h.1.1.2 h.1.2, h.2⟩
  exact Nat.mod_eq_of_modEq (modEq_foldr (fun p h => (hp p h).1) hn fun p h =>
    pow_modEq_self (hp p h).1 (hp p h).2 h0 x) hx

theorem smallPrimes_exponent : ∀ x < nSmall, x ^ (0x10001 * dSmall) % nSmall = x :=
  fun _ hx => pow_mod_self (by decide) smallPrimes_good smallPrimes_sorted hx

/-- A head of zeros, an empty plaintext, one chunk; and a head split over two chunks. -/
theorem witness_DecryptOfPrivateCiphertext :
    2 ^ 1023 ≤ nSmall ∧ nSmall < 2 ^ 1024 ∧
      (∀ x < nSmall, x ^ (0x10001 * dSmall) % nSmall = x) ∧ (rep 0x00 16).length = 16 ∧
      (∀ ch ∈ [rep 0x00 15, rep 0x00 1], ch.length ≤ 117) ∧
      [rep 0x00 15, rep 0x00 1].flatten =
        rep 0x00 16 ++ xorAlign (revBytes (xorAlign [] [0x8d, 0xa5, 0xa5, 0x8d]))
          (derive ktT (rep 0x00 16)).toList :=
  ⟨by decide +kernel, by decide +kernel, smallPrimes_exponent, by decide, by decide,
    by decide +kernel⟩

theorem witness_BigEndianConversions :
    0 < 256 ^ 0 ∧ 256 ^ 128 - 1 < 256 ^ 128 ∧ os2ip [0x00, 0x05] = 5 := by decide +kernel

end Sys2Proof.Tests
end

section
/-! The big-endian conversions (00_scope.md R11 to R13). -/

namespace Sys2Proof.Machine

/-- The leading byte carries the weight `256 ^ (|s| - 1)` of R11. -/
theorem os2ip_cons (b : Byte) (s : List Byte) :
    os2ip (b :: s) = b.toNat * 256 ^ s.length + os2ip s := by
  induction s using List.reverseRecOn with
  | nil => simp [os2ip]
  | append_singleton s c ih =>
    rw [← List.cons_append, os2ip_append_singleton, ih, os2ip_append_singleton, List.length_append,
      List.length_singleton]
    ring

theorem os2ip_eq_sum (s : List Byte) :
    os2ip s = ∑ i ∈ Finset.range s.length, (s.getD i 0).toNat * 256 ^ (s.length - 1 - i) := by
  induction s with
  | nil => rfl
  | cons b s ih =>
    have weight (i : Nat) : s.length - 1 - i = s.length - (i + 1) := by omega
    rw [os2ip_cons, ih, Nat.add_comm, List.length_cons, Finset.sum_range_succ']
    simp only [weight, List.getD_cons_succ, List.getD_cons_zero, Nat.add_sub_cancel, Nat.sub_zero]

theorem os2ip_i2osp_of_lt {x n : Nat} (h : x < 256 ^ n) : os2ip (i2osp x n) = x := by
  rw [os2ip_i2osp, Nat.mod_eq_of_lt h]

/-! ### `minBE` (R13) -/

/-- Leading zero bytes carry no value. -/
theorem os2ip_dropWhile_zero (s : List Byte) : os2ip (s.dropWhile (· == 0)) = os2ip s := by
  induction s with
  | nil => rfl
  | cons b s ih =>
    rw [List.dropWhile_cons]
    split
    next hb =>
      rw [ih, os2ip_cons, beq_iff_eq.1 hb]
      simp
    next => rfl

/-- A string with a nonzero leading byte has value at least `256 ^ (|s| - 1)`, which a shorter string
does not reach. -/
theorem length_le_of_os2ip_eq {s t : List Byte} (hs : s.head? ≠ some 0) (h : os2ip t = os2ip s) :
    s.length ≤ t.length := by
  cases s with
  | nil => exact Nat.zero_le _
  | cons b s =>
    have hb : b.toNat ≠ 0 := fun h0 => hs (congrArg some (BitVec.eq_of_toNat_eq h0))
    have hlt : 256 ^ s.length < 256 ^ t.length := calc
      256 ^ s.length ≤ b.toNat * 256 ^ s.length := Nat.le_mul_of_pos_left _ (Nat.pos_of_ne_zero hb)
      _ ≤ os2ip (b :: s) := by rw [os2ip_cons]; exact Nat.le_add_right _ _
      _ = os2ip t := h.symm
      _ < 256 ^ t.length := os2ip_lt t
    exact (Nat.pow_lt_pow_iff_right (by decide)).1 hlt

theorem os2ip_minBE {x : Nat} (h : x < 256 ^ 128) : os2ip (minBE x) = x := by
  rw [minBE, os2ip_dropWhile_zero, os2ip_i2osp_of_lt h]

theorem minBE_head?_ne_zero (x : Nat) : (minBE x).head? ≠ some 0 := fun h => by
  have hp := List.head?_dropWhile_not (· == (0 : Byte)) (i2osp x 128)
  rw [← minBE, h] at hp
  cases hp

/-- Settles O60: the value of a string splits at its first byte (`os2ip_cons`), which gives the place
values and, since MinBE has no leading zero, the bound on every string of the same value. -/
theorem bigEndianConversions : Obligations.BigEndianConversions := by
  refine ⟨os2ip_eq_sum, fun s b => ?snoc, os2ip_nil, fun x n h => ?ofInt, i2osp_os2ip,
    fun x h => ?shortest⟩
  case snoc => rw [os2ip_append_singleton, Nat.mul_comm]
  case ofInt => exact ⟨i2osp_length x n, os2ip_i2osp_of_lt h⟩
  case shortest =>
    exact ⟨os2ip_minBE h, minBE_head?_ne_zero x, fun s hs =>
      length_le_of_os2ip_eq (minBE_head?_ne_zero x) (hs.trans (os2ip_minBE h).symm)⟩

end Sys2Proof.Machine
end

section
/-! The register region of the window (10_state.md section 3) and the unmapped offsets (20_memory.md
R43): what a host read and a host write do at each kind of offset. -/

namespace Sys2Proof.Machine

/-! ### The offsets of the registers -/

/-- The offset of each register (10_state.md R18): the inverse of `regAt` (`regAt_eq_some_iff`). -/
def Reg.offset : Reg → Nat
  | .id => 0x000
  | .version => 0x004
  | .cmd => 0x008
  | .status => 0x00C
  | .ctrl => 0x010
  | .src => 0x014
  | .len => 0x018
  | .dst => 0x01C
  | .outlen => 0x020
  | .dmemsz => 0x024
  | .key0 => 0x030
  | .key1 => 0x034
  | .key2 => 0x038

@[simp] theorem regAt_offset (r : Reg) : regAt r.offset = some r := by
  cases r <;> rfl

theorem regAt_eq_some_iff {off : Nat} {r : Reg} : regAt off = some r ↔ off = r.offset := by
  constructor
  · intro h
    simp only [regAt, ite_eq_iff, Option.some.injEq] at h
    cases r <;> simp only [reduceCtorEq, and_false, and_true, false_or, or_false] at h <;>
      simp only [Reg.offset, h]
  · rintro rfl
    exact regAt_offset r

theorem regAt_eq_none_iff {off : Nat} : regAt off = none ↔ ∀ r : Reg, off ≠ r.offset := by
  simp only [Option.eq_none_iff_forall_ne_some, ne_eq, regAt_eq_some_iff]

theorem Reg.offset_lt (r : Reg) : r.offset < Config.registerEnd := by
  cases r <;> decide

theorem Reg.offset_aligned (r : Reg) : r.offset % 4 = 0 := by
  cases r <;> rfl

theorem Reg.offset_mem (r : Reg) :
    r.offset ∈ [0x000, 0x004, 0x008, 0x00C, 0x010, 0x014, 0x018, 0x01C, 0x020, 0x024, 0x030, 0x034,
      0x038] := by
  cases r <;> decide

/-! ### The locks (R32) -/

theorem Reg.offset_mem_lockedOffsets {r : Reg} :
    r.offset ∈ lockedOffsets ↔ r.readLocked = true := by
  cases r <;> decide

theorem exists_readLocked_of_mem {off : Nat} (h : off ∈ lockedOffsets) :
    ∃ r : Reg, off = r.offset ∧ r.readLocked = true := by
  have named : ∀ o ∈ lockedOffsets, (regAt o).isSome := by decide
  obtain ⟨r, hr⟩ := Option.isSome_iff_exists.1 (named off h)
  obtain rfl := regAt_eq_some_iff.1 hr
  exact ⟨r, rfl, Reg.offset_mem_lockedOffsets.1 h⟩

/-- Writes are locked where reads are, and at CMD. -/
theorem Reg.writeLocked_eq (r : Reg) : r.writeLocked = (r.readLocked || decide (r = .cmd)) := by
  cases r <;> rfl

/-! ### The target of an access -/

theorem target_offset (busy : Bool) (locked : Reg → Bool) (r : Reg) :
    target busy locked r.offset 4 = if busy && locked r then .refused else .register r := by
  simp [target, r.offset_lt, r.offset_aligned]

theorem target_reserved (busy : Bool) (locked : Reg → Bool) {off : Nat} (hlt : off < 0x100)
    (hal : off % 4 = 0) (hr : regAt off = none) : target busy locked off 4 = .reserved := by
  simp [target, Config.registerEnd, hlt, hal, hr]

theorem target_unmapped (busy : Bool) (locked : Reg → Bool) {off w : Nat}
    (hw : w = 1 ∨ w = 2 ∨ w = 4)
    (h : (0x100 ≤ off ∧ off ≤ 0x00FFFFFF) ∨ 0x01000000 + Config.dmemSize ≤ off) :
    target busy locked off w = .unmapped := by
  have hreg : ¬off < Config.registerEnd := by unfold Config.registerEnd; omega
  rw [target, if_neg (not_not_intro hw), if_neg hreg]
  rcases h with ⟨_, hbelow⟩ | habove
  · rw [if_pos (by unfold Config.dmemOffset; omega)]
  · rw [if_neg (by unfold Config.dmemOffset; omega), if_neg (by unfold Config.dmemOffset; omega)]

/-! ### Accesses by target -/

theorem access_read_register {s : State} {r : Reg} (h : (s.busy && r.readLocked) = false) :
    s.access (.read r.offset 4) = { s with rdata := s.regValue r } := by
  simp [State.access, State.hostRead, target_offset, h]

theorem access_write_register {s : State} {r : Reg} (h : (s.busy && r.writeLocked) = false)
    (v : Word) : s.access (.write r.offset 4 v) = s.writeReg v r := by
  simp [State.access, State.hostWrite, target_offset, h]

theorem access_read_locked {s : State} {r : Reg} (hb : s.busy = true) (hr : r.readLocked = true) :
    s.access (.read r.offset 4) = { s with accerr := true, rdata := 0 } := by
  simp [State.access, State.hostRead, target_offset, hb, hr, State.setAccerr]

theorem access_write_locked {s : State} {r : Reg} (hb : s.busy = true) (hr : r.writeLocked = true)
    (v : Word) : s.access (.write r.offset 4 v) = { s with accerr := true } := by
  simp [State.access, State.hostWrite, target_offset, hb, hr, State.setAccerr]

/-- An access that reaches neither a register nor DMEM, and is not refused, reads 0 and writes
nothing (R30, R43). -/
theorem access_silent {s : State} {off w : Nat} (v : Word)
    (h : ∀ locked, target s.busy locked off w = .reserved ∨
      target s.busy locked off w = .unmapped) :
    s.access (.read off w) = { s with rdata := 0 } ∧ s.access (.write off w v) = s := by
  constructor
  · rcases h Reg.readLocked with ht | ht <;> simp [State.access, State.hostRead, ht]
  · rcases h Reg.writeLocked with ht | ht <;> simp [State.access, State.hostWrite, ht]

theorem access_reserved {s : State} {off : Nat} (v : Word) (hlt : off < 0x100)
    (hal : off % 4 = 0) (hr : regAt off = none) :
    s.access (.read off 4) = { s with rdata := 0 } ∧ s.access (.write off 4 v) = s :=
  access_silent v fun _ => .inl (target_reserved _ _ hlt hal hr)

/-- A register that is never locked and ignores writes reads its value and keeps the state. -/
theorem access_readOnly {s : State} {r : Reg} {c v : Word} (hl : r.writeLocked = false)
    (hc : s.regValue r = c) (hv : s.writeReg v r = s) :
    s.access (.read r.offset 4) = { s with rdata := c } ∧
      s.access (.write r.offset 4 v) = s := by
  have hr : r.readLocked = false := (Bool.or_eq_false_iff.1 (r.writeLocked_eq ▸ hl)).1
  exact ⟨hc ▸ access_read_register (by simp [hr]),
    (access_write_register (by simp [hl]) v).trans hv⟩

/-- A register write never sets ACCERR: STATUS only clears it, the soft reset by CTRL too. -/
theorem accerr_of_writeReg {s : State} {v : Word} {r : Reg}
    (h : (s.writeReg v r).accerr = true) : s.accerr = true := by
  cases r
  case status =>
    rw [State.writeReg, State.writeStatus_accerr, Bool.and_eq_true] at h
    exact h.1
  case ctrl =>
    rw [State.writeReg, State.writeCtrl] at h
    split at h
    · obtain ⟨_, hs⟩ | ⟨_, _, hs⟩ := s.softReset_cases <;> simp [hs] at h
    · exact h
  all_goals simpa [State.writeReg] using h

/-! ### The statements -/

/-- Settles O35: at an aligned offset there is a register, locked or not, or none (R30); the locked
offsets are the registers with locked reads, and CMD is the one register locked for writes only. -/
theorem lockedWhileBusy : Obligations.LockedWhileBusy := by
  intro s off v hb hlt hal
  refine ⟨fun hmem => ?locked, fun hcmd => ?cmd, fun hnot => ?unlocked⟩
  case locked =>
    obtain ⟨r, rfl, hr⟩ := exists_readLocked_of_mem hmem
    exact ⟨access_read_locked hb hr, access_write_locked hb (by simp [r.writeLocked_eq, hr]) v⟩
  case cmd =>
    subst hcmd
    exact access_write_locked (r := .cmd) hb rfl v
  case unlocked =>
    cases hreg : regAt off with
    | none =>
      obtain ⟨hread, hwrite⟩ := access_reserved (s := s) v hlt hal hreg
      rw [hread, hwrite]
      exact ⟨rfl, fun _ => id⟩
    | some r =>
      obtain rfl := regAt_eq_some_iff.1 hreg
      have hr : r.readLocked = false := by
        rwa [Reg.offset_mem_lockedOffsets, Bool.not_eq_true] at hnot
      constructor
      · rw [access_read_register (by simp [hr])]
      · intro hne hacc
        have hcmd : r ≠ .cmd := fun h => hne (congrArg Reg.offset h)
        have hw : r.writeLocked = false := by simp [r.writeLocked_eq, hr, hcmd]
        rw [access_write_register (by simp [hw])] at hacc
        exact accerr_of_writeReg hacc

/-- Settles O38: an aligned offset that is none of the thirteen of R18 is reserved, and the other two
ranges are unmapped, whether the core is busy or not. -/
theorem reservedAndUnmappedSilent : Obligations.ReservedAndUnmappedSilent := by
  rintro s off w v hw (⟨hlt, rfl, hal, hnot⟩ | hunmapped)
  · exact access_reserved v hlt hal (regAt_eq_none_iff.2 fun r h => hnot (h ▸ r.offset_mem))
  · exact access_silent v fun _ => .inr (target_unmapped _ _ hw hunmapped)

/-- Settles O39: ID, VERSION and DMEMSZ are never locked, and their writes are ignored. -/
theorem constantRegisters : Obligations.ConstantRegisters := by
  rintro s off c v (⟨rfl, rfl⟩ | ⟨rfl, rfl⟩ | ⟨rfl, hc⟩)
  · exact access_readOnly (r := .id) rfl rfl rfl
  · exact access_readOnly (r := .version) rfl rfl rfl
  · have hval : s.regValue .dmemsz = c := by simp [State.regValue, ← hc]
    exact access_readOnly (r := .dmemsz) rfl hval rfl

end Sys2Proof.Machine
end

section
/-! Host accesses to DMEM (20_memory.md R45): little-endian lanes, and what an access below
DMEM_SIZE reaches or is refused. -/

namespace Sys2Proof.Machine

/-! ### Little-endian lanes -/

theorem leValue_eq_sum (bs : List Byte) :
    leValue bs = ∑ i ∈ Finset.range bs.length, (bs.getD i 0).toNat * 256 ^ i := by
  induction bs with
  | nil => rfl
  | cons b bs ih =>
    rw [leValue, ih, List.length_cons, Finset.sum_range_succ', Finset.mul_sum, Nat.add_comm]
    simp only [List.getD_cons_succ, List.getD_cons_zero, pow_succ', pow_zero, mul_one,
      mul_left_comm]

theorem leValue_lt (bs : List Byte) : leValue bs < 256 ^ bs.length := by
  induction bs with
  | nil => simp [leValue]
  | cons b bs ih =>
    have hb : b.toNat < 256 := b.isLt
    rw [leValue, List.length_cons, pow_succ]
    omega

/-- A bus value of four lanes at most loses nothing in a word. -/
theorem toNat_ofNat_leValue {bs : List Byte} (h : bs.length ≤ 4) :
    (BitVec.ofNat 32 (leValue bs)).toNat = leValue bs := by
  rw [BitVec.toNat_ofNat]
  refine Nat.mod_eq_of_lt ?_
  calc leValue bs < 256 ^ bs.length := leValue_lt bs
    _ ≤ 256 ^ 4 := Nat.pow_le_pow_right (by decide) h
    _ = 2 ^ 32 := by norm_num

theorem State.leValue_bytesAt (s : State) (a n : Nat) :
    leValue (s.bytesAt a n) = ∑ i ∈ Finset.range n, (s.byteAt (a + i)).toNat * 256 ^ i := by
  rw [leValue_eq_sum, s.bytesAt_length]
  refine Finset.sum_congr rfl fun i hi => ?_
  rw [s.bytesAt_getD a n i (Finset.mem_range.1 hi)]

@[simp] theorem lanes_length (v : Word) (w : Nat) : (lanes v w).length = w := by
  simp [lanes]

theorem lanes_getD (v : Word) {w i : Nat} (h : i < w) : (lanes v w).getD i 0 = lane v i := by
  simp [lanes, h]

theorem State.byteAt_putBytes_lanes (s : State) (a : Nat) (v : Word) {w i : Nat} (h : i < w) :
    (s.putBytes a (lanes v w)).byteAt (a + i) = lane v i := by
  have hin : a ≤ a + i ∧ a + i < a + (lanes v w).length := by
    rw [lanes_length]
    omega
  rw [State.byteAt_putBytes, if_pos hin, Nat.add_sub_cancel_left, lanes_getD v h]

theorem State.byteAt_putBytes_of_not_inRange (s : State) {a b : Nat} {vs : List Byte}
    (h : ¬inRange a vs.length b) : (s.putBytes a vs).byteAt b = s.byteAt b := by
  rw [State.byteAt_putBytes]
  exact if_neg h

/-! ### The target of an access below DMEM_SIZE -/

/-- DMEM_SIZE is a multiple of every legal width, so no aligned access straddles its end. -/
theorem dmem_end_of_aligned {a w : Nat} (hw : w = 1 ∨ w = 2 ∨ w = 4) (hal : a % w = 0)
    (hlt : a < Config.dmemSize) : a + w ≤ Config.dmemSize := by
  have hsize := Config.dmemSize_mod
  rcases hw with rfl | rfl | rfl <;> omega

/-- Below DMEM_SIZE the core's idleness and the alignment decide, and the locks do not matter. -/
theorem target_inDmem (busy : Bool) (locked : Reg → Bool) {a w : Nat}
    (hw : w = 1 ∨ w = 2 ∨ w = 4) (hlt : a < Config.dmemSize) :
    target busy locked (0x01000000 + a) w =
      if busy then .refused else if a % w = 0 then .dmem a else .refused := by
  have hreg : ¬0x01000000 + a < Config.registerEnd := by unfold Config.registerEnd; omega
  have hdmem : ¬0x01000000 + a < Config.dmemOffset := by unfold Config.dmemOffset; omega
  have haddr : 0x01000000 + a - Config.dmemOffset = a := by unfold Config.dmemOffset; omega
  rw [target, if_neg (not_not_intro hw), if_neg hreg, if_neg hdmem, haddr, if_pos hlt]

theorem target_dmem {busy : Bool} (locked : Reg → Bool) {a w : Nat}
    (hw : w = 1 ∨ w = 2 ∨ w = 4) (hlt : a < Config.dmemSize) (hal : a % w = 0)
    (hidle : busy = false) : target busy locked (0x01000000 + a) w = .dmem a := by
  rw [target_inDmem busy locked hw hlt, if_neg (by simp [hidle]), if_pos hal]

theorem target_dmem_refused {busy : Bool} (locked : Reg → Bool) {a w : Nat}
    (hw : w = 1 ∨ w = 2 ∨ w = 4) (hlt : a < Config.dmemSize) (h : a % w ≠ 0 ∨ busy = true) :
    target busy locked (0x01000000 + a) w = .refused := by
  rw [target_inDmem busy locked hw hlt]
  rcases h with hmis | hbusy
  · rw [if_neg hmis, ite_self]
  · rw [if_pos hbusy]

/-! ### Accesses by target -/

theorem access_read_dmem {s : State} {off w a : Nat}
    (h : target s.busy Reg.readLocked off w = .dmem a) :
    s.access (.read off w) = { s with rdata := BitVec.ofNat 32 (leValue (s.bytesAt a w)) } := by
  simp [State.access, State.hostRead, h]

theorem access_write_dmem {s : State} {off w a : Nat} (v : Word)
    (h : target s.busy Reg.writeLocked off w = .dmem a) :
    s.access (.write off w v) = s.putBytes a (lanes v w) := by
  simp [State.access, State.hostWrite, h]

/-- A refused access sets ACCERR, reads 0 and writes nothing (R47). -/
theorem access_refused {s : State} {off w : Nat} (v : Word)
    (h : ∀ locked, target s.busy locked off w = .refused) :
    s.access (.read off w) = { s with accerr := true, rdata := 0 } ∧
      s.access (.write off w v) = { s with accerr := true } := by
  simp [State.access, State.hostRead, State.hostWrite, h, State.setAccerr]

/-! ### The statement -/

/-- Settles O37: the target of the access decides the case; the lanes of a read are the digits of
`leValue`, and a write records `lanes`, which `byteAt_putBytes` reads back. -/
theorem dmemAccess : Obligations.DmemAccess := by
  intro s a w v hw
  refine ⟨dmem_end_of_aligned hw, fun hal hend hidle => ?aligned, fun habove => ?unmapped,
    fun hlt hbad => ?refused⟩
  case aligned =>
    have hlt : a < Config.dmemSize := by omega
    have hw4 : (s.bytesAt a w).length ≤ 4 := by rw [s.bytesAt_length]; omega
    rw [access_read_dmem (target_dmem _ hw hlt hal hidle),
      access_write_dmem v (target_dmem _ hw hlt hal hidle)]
    refine ⟨⟨rfl, ?value⟩, rfl, fun i hi => s.byteAt_putBytes_lanes a v hi, fun b hb => ?kept⟩
    case value => exact (toNat_ofNat_leValue hw4).trans (s.leValue_bytesAt a w)
    case kept => exact s.byteAt_putBytes_of_not_inRange (by rwa [lanes_length])
  case unmapped =>
    exact access_silent v fun _ => .inr (target_unmapped _ _ hw (.inr (by omega)))
  case refused =>
    exact access_refused v fun locked => target_dmem_refused locked hw hlt hbad

end Sys2Proof.Machine
end

section
/-! Illegal command words (30_encoding.md R68, R69): which words `decode` answers, and what a
completion with an error changes when no destination byte is left free. -/

namespace Sys2Proof.Machine

/-! ### The words that decode -/

/-- The OPCODE table of R67 read backwards. -/
theorem eq_opcode_of_decodeOpcode {op : Byte} {i : Instr} :
    decodeOpcode op = some i → op = i.opcode := by
  fun_cases decodeOpcode op
  case case12 => nofun
  all_goals
    next hop =>
      rintro ⟨⟩
      exact hop

theorem fields_of_decode {w : Word} {i : Instr} (h : decode w = some i) :
    rsvdField w = 0 ∧ opcodeField w = i.opcode := by
  unfold decode at h
  split_ifs at h with hrsvd
  exact ⟨hrsvd, eq_opcode_of_decodeOpcode h⟩

/-- The ranges of R68 and the RSVD rule of R69: the words that are not well formed. -/
theorem wordWellFormed_eq_false_iff {w : Word} :
    wordWellFormed w = false ↔
      w.extractLsb' 8 24 ≠ 0 ∨
        (let op := (w.extractLsb' 0 8).toNat
         (0x06 ≤ op ∧ op ≤ 0x0F) ∨ (0x12 ≤ op ∧ op ≤ 0x1F) ∨ (0x21 ≤ op ∧ op ≤ 0x2F) ∨
           (0x32 ≤ op ∧ op ≤ 0xFF)) := by
  simp only [wordWellFormed, rsvdZero, opcodeDefined, Bool.and_eq_false_iff, Bool.not_eq_false',
    Bool.and_eq_true, decide_eq_true_eq, beq_eq_false_iff_ne, or_assoc]

/-- None of the eleven OPCODE values lies in a range of R68. -/
theorem opcodeDefined_of_opcodeField {w : Word} {i : Instr} (h : opcodeField w = i.opcode) :
    opcodeDefined w = true := by
  unfold opcodeField at h
  unfold opcodeDefined
  rw [h]
  cases i <;> decide

theorem wordWellFormed_of_decode {w : Word} {i : Instr} (h : decode w = some i) :
    wordWellFormed w = true := by
  obtain ⟨hrsvd, hop⟩ := fields_of_decode h
  exact Bool.and_eq_true_iff.mpr ⟨beq_iff_eq.mpr hrsvd, opcodeDefined_of_opcodeField hop⟩

theorem decode_eq_none_of_not_wordWellFormed {w : Word} (h : wordWellFormed w = false) :
    decode w = none := by
  cases hd : decode w with
  | none => rfl
  | some i => exact absurd (wordWellFormed_of_decode hd) (by simp [h])

/-! ### The statement -/

/-- Taking an error is a whole completion that leaves every DMEM byte as it was: the empty range at
`dst` has no free byte (60_exceptions.md R122). -/
theorem failCommand_completedErr (s : State) (e : ErrCode) (dst : Nat) :
    CompletedErr s (s.failCommand e) e dst 0 where
  inflight := s.failCommand_inflight e
  done := s.failCommand_done e
  err := s.failCommand_err e
  errcode := s.failCommand_errcode e
  outlen := s.failCommand_outlen e
  kreg := s.failCommand_kreg e
  free a ha := by unfold inRange at ha; omega
  kept a _ := State.byteAt_congr (s.failCommand_dmem e) (s.failCommand_dmemDraw e) a
  outside := by constructor <;> simp

/-- Settles O25: a word the premise describes is not well formed, so it does not decode, and the
engine's turn takes ERR_OPCODE, which has no other effect. -/
theorem illegalWordCompletes : Obligations.IllegalWordCompletes := by
  intro s l hturn hl hillegal
  have hnone : decode l.word = none :=
    decode_eq_none_of_not_wordWellFormed (wordWellFormed_eq_false_iff.mpr hillegal)
  have hstep : step s = .next (s.pop.failCommand .errOpcode) :=
    (step_engine hturn).trans (engineTurn_illegal hl hnone)
  exact ⟨_, hstep, failCommand_completedErr s.pop .errOpcode 0⟩

end Sys2Proof.Machine
end

section
/-! The completion step (40_command.md R75, R78): the two kinds of completion as whole effects with
their frames, and how long a command's output is beside its OUTMAX. -/

namespace Sys2Proof.Machine

/-! ### The two kinds of completion -/

/-- DMEM has at most 2^24 bytes, so OUTLEN can hold the length of any output that fits in it. -/
theorem toNat_ofNat_of_le_dmemSize {n : Nat} (h : n ≤ Config.dmemSize) :
    (BitVec.ofNat 32 n).toNat = n := by
  have hsize := Config.dmemSize_le
  rw [BitVec.toNat_ofNat]
  exact Nat.mod_eq_of_lt (by omega)

/-- A success is a whole completion with the bytes of `out` (40_command.md R75). -/
theorem State.succeed_completedOk {s t : State} {dst : Nat} {out : Option (List Byte)}
    {key : Option Key} (h : s.succeed dst out key = .ok t) :
    CompletedOk s t dst (out.getD []) (key.getD s.kreg) := by
  obtain ⟨hfits, rfl⟩ := State.succeed_eq_ok.1 h
  have hle : (out.getD []).length ≤ Config.dmemSize := by
    rcases hfits with hnil | hle
    · simp [hnil]
    · omega
  have written (a : Nat) := s.byteAt_putBytes dst (out.getD []) a
  exact
    { inflight := rfl
      done := rfl
      err := rfl
      errcode := rfl
      outlen := toNat_ofNat_of_le_dmemSize hle
      kreg := rfl
      stored := fun a ha => (written a).trans (if_pos ha)
      kept := fun a ha => (written a).trans (if_neg ha)
      draws := rfl
      outside := by constructor <;> rfl }

/-- A failing body is a whole completion that leaves the `n` bytes at `dst` free
(60_exceptions.md R122). -/
theorem havoc_failCommand_completedErr (s : State) (e : ErrCode) (dst n : Nat) :
    CompletedErr s ((s.havoc dst n).failCommand e) e dst n where
  inflight := rfl
  done := rfl
  err := rfl
  errcode := rfl
  outlen := rfl
  kreg := rfl
  free a ha := (s.byteAt_havoc dst n a).trans (if_pos ha)
  kept a ha := (s.byteAt_havoc dst n a).trans (if_neg ha)
  outside := by constructor <;> rfl

/-! ### The lengths of stripped blocks -/

theorem minBE_length_le (x : Nat) : (minBE x).length ≤ 128 :=
  (List.length_dropWhile_le _ _).trans_eq (i2osp_length x 128)

/-- What a successful search found: a nonempty run before the separator (42_padding.md R96), since a
minimal serialization does not begin with a zero byte. -/
theorem unpadBlock_ok {b u : List Byte} (h : unpadBlock b = .ok u) :
    ∃ run : List Byte, run ≠ [] ∧ minBE (os2ip b) = run ++ 0 :: u := by
  unfold unpadBlock at h
  split at h
  next => cases h
  next sep rest hdrop =>
    obtain rfl := Except.ok.inj h
    have hsep : sep = 0 := by
      have hhead := List.head?_dropWhile_not (· != (0 : Byte)) (minBE (os2ip b))
      rw [hdrop] at hhead
      simpa using hhead
    have hsplit := List.takeWhile_append_dropWhile (p := (· != (0 : Byte))) (l := minBE (os2ip b))
    rw [hdrop, hsep] at hsplit
    refine ⟨_, fun hnil => minBE_head?_ne_zero (os2ip b) ?_, hsplit.symm⟩
    rw [← hsplit, hnil]
    rfl

theorem unpadBlock_length_le {b u : List Byte} (h : unpadBlock b = .ok u) : u.length ≤ 126 := by
  obtain ⟨run, hrun, heq⟩ := unpadBlock_ok h
  have hpos := List.length_pos_of_ne_nil hrun
  have htotal := minBE_length_le (os2ip b)
  rw [heq, List.length_append, List.length_cons] at htotal
  omega

theorem accumulateBlocks_length_le {n : Nat} {bs : List (List Byte)} {acc : List Byte}
    (h : accumulateBlocks n bs = .ok acc) : acc.length ≤ 126 * bs.length := by
  induction bs generalizing acc with
  | nil =>
    obtain rfl := Except.ok.inj h
    simp
  | cons b bs ih =>
    obtain ⟨u, rest, hu, hrest, rfl⟩ := accumulateBlocks_cons_ok.1 h
    have hhead := unpadBlock_length_le hu
    have htail := ih hrest
    rw [List.length_append, List.length_cons]
    omega

theorem decryptBytes_length_le {n : Nat} {kt : Nat → Byte} {c p : List Byte} {k : Key}
    (h : decryptBytes n kt c = .ok (p, k)) : p.length ≤ 126 * (c.length / 128) - 16 := by
  obtain ⟨acc, hacc, -, -, rfl⟩ := decryptBytes_ok.1 h
  have hle : acc.length ≤ 126 * (c.length / 128) := by
    simpa using accumulateBlocks_length_le hacc
  rw [xorDec_length, List.length_drop]
  omega

/-- One 128-byte block per chunk of the seeded buffer (44_pipeline.md R108). -/
theorem encryptBytes_length (n : Nat) (seed p : List Byte) :
    (encryptBytes n seed p).length = 128 * ceilDiv (seed.length + p.length) 117 := by
  simp [encryptBytes, List.length_flatMap, seededBuffer, Nat.mul_comm]

/-! ### The output of a body beside OUTMAX -/

/-- The lengths that R78 allows a success of `i` for LEN `n`: at most OUTMAX, and exactly OUTMAX
where it is no mere bound. -/
def OutputFits (i : Instr) (n : Nat) (out : List Byte) : Prop :=
  out.length ≤ outMax i n ∧ (i ≠ .unpad → i ≠ .decrypt → out.length = outMax i n)

theorem OutputFits.of_eq {i : Instr} {n : Nat} {out : List Byte} (h : out.length = outMax i n) :
    OutputFits i n out :=
  ⟨h.le, fun _ _ => h⟩

/-- The output of a body that cannot fail on its data. -/
theorem output_of_withSource {s : State} {a n : Nat} {g : List Byte → List Byte}
    {out : Option (List Byte)} {k key : Option Key}
    (h : s.withSource a n (fun bs => .ok (some (g bs)) k) = .ok (.ok out key)) :
    out.getD [] = g (s.bytesAt a n) := by
  obtain ⟨-, hres⟩ := State.withSource_eq_ok.1 h
  obtain ⟨rfl, -⟩ := BodyResult.ok.inj hres
  rfl

theorem unpadResult_eq_ok {b : List Byte} {out : Option (List Byte)} {key : Option Key}
    (h : unpadResult b = .ok out key) : ∃ u, unpadBlock b = .ok u ∧ out = some u := by
  cases hu : unpadBlock b with
  | error e => simp [unpadResult_fail hu] at h
  | ok u =>
    obtain ⟨rfl, -⟩ := BodyResult.ok.inj ((unpadResult_ok hu).symm.trans h)
    exact ⟨u, rfl, rfl⟩

theorem decryptResult_eq_ok {c : List Byte} {out : Option (List Byte)} {key : Option Key}
    (h : decryptResult c = .ok out key) :
    ∃ p k, decryptBytes Config.modN Config.kt c = .ok (p, k) ∧ out = some p := by
  cases hd : decryptBytes Config.modN Config.kt c with
  | error e => simp [decryptResult_fail hd] at h
  | ok pk =>
    obtain ⟨rfl, -⟩ := BodyResult.ok.inj ((decryptResult_ok hd).symm.trans h)
    exact ⟨pk.1, pk.2, rfl, rfl⟩

/-- PAD's output is a block only because check 3 bounds its chunk (60_exceptions.md R120). -/
theorem len_le_of_checkOperands_pad {l : Latch} (h : checkOperands .pad l = none) :
    l.len.toNat ≤ 117 := by
  obtain ⟨hlen, -⟩ := (checkOperands_eq_none (by decide)).1 h
  simpa [lengthError] using hlen

/-- Every successful body keeps R78, once the checks have passed. -/
theorem bodyOf_outputFits {i : Instr} {l : Latch} {s : State} {out : Option (List Byte)}
    {key : Option Key} (hc : checkOperands i l = none) (h : bodyOf i l s = .ok (.ok out key)) :
    OutputFits i l.len.toNat (out.getD []) := by
  cases i
  case nop =>
    obtain ⟨rfl, -⟩ := BodyResult.ok.inj (Except.ok.inj h)
    exact .of_eq rfl
  case kderive =>
    obtain ⟨-, hres⟩ := State.withSource_eq_ok.1 h
    obtain ⟨rfl, -⟩ := BodyResult.ok.inj hres
    exact .of_eq rfl
  case unpad =>
    obtain ⟨-, hres⟩ := State.withSource_eq_ok.1 h
    obtain ⟨u, hu, rfl⟩ := unpadResult_eq_ok hres
    exact ⟨unpadBlock_length_le hu, fun hne => absurd rfl hne⟩
  case decrypt =>
    obtain ⟨-, hres⟩ := State.withSource_eq_ok.1 h
    obtain ⟨p, k, hp, rfl⟩ := decryptResult_eq_ok hres
    have hle := decryptBytes_length_le hp
    rw [State.bytesAt_length] at hle
    exact ⟨hle, fun _ hne => absurd rfl hne⟩
  case pad =>
    refine .of_eq ?_
    rw [output_of_withSource h, padBlock_length]
    · rfl
    · simpa using len_le_of_checkOperands_pad hc
  case encrypt =>
    refine .of_eq ?_
    rw [output_of_withSource h, encryptBytes_length]
    simp [outMax]
  all_goals
    refine .of_eq ?_
    rw [output_of_withSource h]
    simp [outMax]

/-! ### Every completion -/

/-- Everything `exec` can answer for a command in flight: an error that frees at most OUTMAX bytes
at the latched `dst`, or a success whose output keeps R78. -/
theorem exec_completes {i : Instr} {s t : State} {l : Latch} (hl : s.inflight = some l)
    (h : exec i s = .next t) :
    (∃ e n, n ≤ outMax i l.len.toNat ∧ CompletedErr s t e l.dst.toNat n) ∨
      ∃ out key, OutputFits i l.len.toNat out ∧ CompletedOk s t l.dst.toNat out key := by
  rw [exec_eq_runCommand] at h
  obtain ⟨l', hl', hcases⟩ := runCommand_cases h
  obtain rfl := Option.some.inj (hl.symm.trans hl')
  obtain ⟨e, -, rfl⟩ | ⟨-, e, -, rfl⟩ | ⟨hc, out, key, hbody, hs⟩ := hcases
  · exact .inl ⟨e, 0, Nat.zero_le _, failCommand_completedErr s e l.dst.toNat⟩
  · exact .inl ⟨e, _, le_rfl, havoc_failCommand_completedErr s e l.dst.toNat _⟩
  · exact .inr ⟨_, _, bodyOf_outputFits hc hbody, State.succeed_completedOk hs⟩

theorem not_inRange_of_le {base m n a : Nat} (h : ¬inRange base n a) (hle : m ≤ n) :
    ¬inRange base m a :=
  fun ⟨hlo, hhi⟩ => h ⟨hlo, by omega⟩

/-! ### The statement -/

/-- The table of R78. -/
theorem outMax_table (len : Nat) :
    outMax .nop len = 0 ∧ outMax .kderive len = 0 ∧
      outMax .xor4 len = len ∧ outMax .xor12 len = len ∧ outMax .xork len = len ∧
      outMax .rev len = len ∧ outMax .pad len = 128 ∧ outMax .modexp len = 128 ∧
      outMax .unpad len = 126 ∧ outMax .encrypt len = 128 * ((16 + len + 116) / 117) ∧
      outMax .decrypt len = max 0 (126 * (len / 128) - 16) :=
  ⟨rfl, rfl, rfl, rfl, rfl, rfl, rfl, rfl, rfl, rfl, (Nat.zero_max _).symm⟩

/-- Settles O29: an error frees, and a success writes, at most OUTMAX bytes at the latched `dst`;
OUTLEN is the length of what a success wrote. -/
theorem commandsWriteWithinOutmax : Obligations.CommandsWriteWithinOutmax := by
  refine ⟨outMax_table, fun i s t l hl h => ?_⟩
  obtain ⟨e, n, hn, hfail⟩ | ⟨out, key, ⟨hle, heq⟩, hok⟩ := exec_completes hl h
  · refine ⟨fun a ha => hfail.kept a (not_inRange_of_le ha hn), fun _ hterr => ?_⟩
    exact absurd (hfail.err.symm.trans hterr) (by decide)
  · refine ⟨fun a ha => hok.kept a (not_inRange_of_le ha hle), fun _ _ => ?_⟩
    rw [hok.outlen]
    exact ⟨hle, heq⟩

end Sys2Proof.Machine
end

section
/-! A host write to CMD (40_command.md R73, R74): the launch while idle, the refusal while busy. -/

namespace Sys2Proof.Machine

/-- While idle CMD is not locked, and a write to it is the launch. -/
theorem access_cmd_idle {s : State} (hidle : s.busy = false) (w : Word) :
    s.access (.write 0x008 4 w) = s.launch w :=
  access_write_register (r := .cmd) (by simp [hidle]) w

/-- Settles O33: BUSY follows from the latched record, and irq drops because DONE is cleared. -/
theorem launchEffect : Obligations.LaunchEffect := by
  intro s w hidle
  have hlaunch := access_cmd_idle hidle w
  refine ⟨hlaunch, ?busy, ?irq⟩
  case busy => rw [hlaunch, State.busy, State.launch_inflight, Option.isSome_some]
  case irq => rw [hlaunch, State.irq, State.launch_done, Bool.and_false]

/-- Settles O34: CMD is locked for writes while busy. -/
theorem busyLaunchRefused : Obligations.BusyLaunchRefused := by
  intro s w hbusy
  exact access_write_locked (r := .cmd) hbusy rfl w

end Sys2Proof.Machine
end

section
/-! The keystream functions (41_keystream.md R84 to R86): their bytes, position by position, and what
follows from them. -/

namespace Sys2Proof.Machine

/-! ### Rev -/

theorem revBytes_revBytes (s : List Byte) : revBytes (revBytes s) = s := s.reverse_reverse

theorem revBytes_getD {s : List Byte} {j : Nat} (h : j < s.length) :
    (revBytes s).getD j 0 = s.getD (s.length - 1 - j) 0 := by
  rw [revBytes, List.getD_eq_getElem?_getD, List.getD_eq_getElem?_getD, List.getElem?_reverse h]

/-- Settles O46, from the model's definition of reversal. -/
theorem revInvolution : Obligations.RevInvolution := by
  intro s
  exact ⟨revBytes_revBytes s, revBytes_length s, fun _ hj => revBytes_getD hj⟩

/-! ### XorAlign -/

theorem keystream_getElem (k : List Byte) {L j : Nat} (h : j < (keystream k L).length) :
    (keystream k L)[j] = k.getD (ksIdx L k.length j) 0 := by
  simp [keystream]

/-- The byte a position is combined with depends on the string only through its length (R81, R83). -/
theorem xorAlign_getElem (s k : List Byte) {j : Nat} (h : j < (xorAlign s k).length) :
    (xorAlign s k)[j] =
      s[j]'(xorAlign_length s k ▸ h) ^^^ k.getD (ksIdx s.length k.length j) 0 := by
  simp only [xorAlign, List.getElem_zipWith, keystream_getElem]

@[simp] theorem xorAlign_nil (k : List Byte) : xorAlign [] k = [] := rfl

/-- Both passes use one keystream, since the first keeps the length; it cancels bytewise. -/
theorem xorAlign_xorAlign (s k : List Byte) : xorAlign (xorAlign s k) k = s := by
  refine List.ext_getElem (by simp) fun j _ _ => ?_
  simp only [xorAlign_getElem, xorAlign_length, BitVec.xor_assoc, BitVec.xor_self, BitVec.xor_zero]

/-- Two zero bytes take key bytes 0 and 1 as one buffer, and key byte 0 twice as two buffers. -/
theorem xorAlign_append_ne :
    xorAlign ([0x00] ++ [0x00]) Config.mask4 ≠
      xorAlign [0x00] Config.mask4 ++ xorAlign [0x00] Config.mask4 := by
  decide

/-- Settles O45: the laws hold for keys of every length, and one zero byte beside another is aligned
differently from two buffers of one byte. -/
theorem xorAlignInvolution : Obligations.XorAlignInvolution := by
  refine ⟨fun s k _ => ?laws, ?notConcat⟩
  case laws => exact ⟨xorAlign_length s k, xorAlign_xorAlign s k, xorAlign_nil k⟩
  case notConcat => exact ⟨[0x00], [0x00], Config.mask4, .inl rfl, xorAlign_append_ne⟩

/-! ### Derive -/

@[simp] theorem derive_getElem (kt : Nat → Byte) (head : List Byte) {i : Nat} (h : i < 12) :
    (derive kt head)[i] = deriveByte kt head i := by
  simp [derive]

/-- The KeyTable index `132 - 12*i` of R86 is itself one of the twelve indices `12*m`. -/
theorem deriveByte_eq (kt : Nat → Byte) (head : List Byte) (i : Nat) :
    deriveByte kt head i = kt (12 * (11 - i)) ^^^ (head.getD i 0 + kt (12 * i)) := by
  rw [deriveByte, Nat.mul_sub]

theorem derive_congr {kt kt' : Nat → Byte} {head head' : List Byte}
    (hkt : ∀ i < 12, kt (12 * i) = kt' (12 * i))
    (hhead : ∀ i < 12, head.getD i 0 = head'.getD i 0) : derive kt head = derive kt' head' := by
  refine Vector.ext fun i hi => ?_
  rw [derive_getElem, derive_getElem, deriveByte_eq, deriveByte_eq, hkt i hi, hhead i hi,
    hkt (11 - i) (by omega)]

/-- Settles O47: the key is a function of the twelve KeyTable entries and the twelve head bytes that
its bytes name. -/
theorem deriveReadsTwelveEntries : Obligations.DeriveReadsTwelveEntries := by
  refine ⟨fun kt head i => ?bytes, fun kt kt' head head' hkt hhead => ?dependence⟩
  case bytes => exact derive_getElem kt head i.isLt
  case dependence => exact derive_congr hkt hhead

end Sys2Proof.Machine
end

section
/-! The padded block and its search for a separator (42_padding.md R94 to R97). -/

namespace Sys2Proof.Machine

/-! ### The bytes of a padded block (R94) -/

theorem padBlock_eq (ch : List Byte) :
    padBlock ch = 0x00 :: (List.replicate (126 - ch.length) 0x02 ++ 0x00 :: ch) := by
  simp [padBlock]

@[simp] theorem padBlock_getD_zero (ch : List Byte) (d : Byte) :
    (padBlock ch).getD 0 d = 0x00 := rfl

theorem padBlock_getD_run {ch : List Byte} {j : Nat} (d : Byte) (hpos : 1 ≤ j)
    (hle : j ≤ 126 - ch.length) : (padBlock ch).getD j d = 0x02 := by
  obtain ⟨i, rfl⟩ := Nat.exists_eq_add_of_le' hpos
  have hi : i < (List.replicate (126 - ch.length) (0x02 : Byte)).length := by
    rw [List.length_replicate]
    omega
  rw [padBlock_eq, List.getD_cons_succ, List.getD_append _ _ _ _ hi,
    List.getD_replicate _ (by omega)]

theorem padBlock_getD_separator {ch : List Byte} (d : Byte) (h : ch.length ≤ 126) :
    (padBlock ch).getD (127 - ch.length) d = 0x00 := by
  rw [padBlock_eq, show 127 - ch.length = 126 - ch.length + 1 by omega, List.getD_cons_succ,
    List.getD_append_right _ _ _ _ (by simp), List.length_replicate, Nat.sub_self,
    List.getD_cons_zero]

theorem padBlock_drop {ch : List Byte} (h : ch.length ≤ 126) :
    (padBlock ch).drop (128 - ch.length) = ch := by
  rw [padBlock]
  refine List.drop_left' ?_
  simp
  omega

/-! ### The integer of a padded block (R95) -/

/-- The run holds at least nine bytes, so bytes 0 and 1 of a block are fixed. -/
theorem padBlock_eq_zero_two {ch : List Byte} (h : ch.length ≤ 117) :
    ∃ rest : List Byte, rest.length = 126 ∧ padBlock ch = 0x00 :: 0x02 :: rest := by
  refine ⟨List.replicate (125 - ch.length) 0x02 ++ 0x00 :: ch, ?_, ?_⟩
  · simp
    omega
  · rw [padBlock_eq, show 126 - ch.length = 125 - ch.length + 1 by omega, List.replicate_succ,
      List.cons_append]

theorem os2ip_padBlock {ch : List Byte} (h : ch.length ≤ 117) :
    ∃ r < 256 ^ 126, os2ip (padBlock ch) = 2 * 256 ^ 126 + r := by
  obtain ⟨rest, hlen, heq⟩ := padBlock_eq_zero_two h
  refine ⟨os2ip rest, hlen ▸ os2ip_lt rest, ?_⟩
  rw [heq, os2ip_cons, os2ip_cons, hlen]
  simp

theorem le_os2ip_padBlock {ch : List Byte} (h : ch.length ≤ 117) :
    2 * 256 ^ 126 ≤ os2ip (padBlock ch) := by
  obtain ⟨r, -, heq⟩ := os2ip_padBlock h
  exact heq ▸ Nat.le_add_right _ _

theorem os2ip_padBlock_lt {ch : List Byte} (h : ch.length ≤ 117) :
    os2ip (padBlock ch) < 256 ^ 127 := by
  obtain ⟨r, hr, heq⟩ := os2ip_padBlock h
  rw [heq, Nat.pow_succ]
  omega

theorem pow_256_127 : 256 ^ 127 = 2 ^ 1016 := by
  rw [show 256 = 2 ^ 8 by rfl, show 1016 = 8 * 127 by rfl, Nat.pow_mul]

/-- A padded block is a residue modulo every admissible modulus (10_state.md R37). -/
theorem os2ip_padBlock_lt_modulus {ch : List Byte} {n : Nat} (h : ch.length ≤ 117)
    (hn : 2 ^ 1023 ≤ n) : os2ip (padBlock ch) < n := calc
  os2ip (padBlock ch) < 256 ^ 127 := os2ip_padBlock_lt h
  _ = 2 ^ 1016 := pow_256_127
  _ ≤ 2 ^ 1023 := by rw [Nat.pow_le_pow_iff_right (by decide)]; decide
  _ ≤ n := hn

/-- Settles O49: the bytes are read off the block's four parts, and the integer from its first two
bytes, which are the same for every chunk. -/
theorem padLayout : Obligations.PadLayout := by
  intro ch h
  have hrun : 9 ≤ 126 - ch.length := by omega
  have hsep : ch.length ≤ 126 := by omega
  exact ⟨padBlock_length h, padBlock_getD_zero ch _, fun _ => padBlock_getD_run _,
    padBlock_getD_separator _ hsep, padBlock_drop hsep, hrun,
    padBlock_getD_run _ le_rfl (by omega), le_os2ip_padBlock h, os2ip_padBlock_lt h, pow_256_127,
    fun _ => os2ip_padBlock_lt_modulus h⟩

/-! ### The search for the separator (R96) -/

/-- On a whole block the minimal serialization is the block without its leading zeros. -/
theorem minBE_os2ip {b : List Byte} (h : b.length = 128) :
    minBE (os2ip b) = b.dropWhile (· == 0) := by
  rw [minBE, ← h, i2osp_os2ip]

theorem minBE_os2ip_zeros_append {z : Nat} {s : List Byte} (hs : s.head? ≠ some 0)
    (hlen : (List.replicate z 0x00 ++ s).length = 128) :
    minBE (os2ip (List.replicate z 0x00 ++ s)) = s := by
  rw [minBE_os2ip hlen, List.dropWhile_append_of_pos (by simp)]
  cases s with
  | nil => rfl
  | cons x s =>
    have hx : x ≠ 0 := fun h0 => hs (congrArg some h0)
    exact List.dropWhile_cons_of_neg (by simpa using hx)

/-- A nonempty run of nonzero bytes keeps the search off the leading zeros of the block. -/
theorem unpadBlock_of_separator {z : Nat} {run rest : List Byte} (hne : run ≠ [])
    (hrun : ∀ x ∈ run, x ≠ 0x00)
    (hlen : (List.replicate z 0x00 ++ (run ++ 0x00 :: rest)).length = 128) :
    unpadBlock (List.replicate z 0x00 ++ (run ++ 0x00 :: rest)) = .ok rest := by
  have hhead : (run ++ 0x00 :: rest).head? ≠ some 0 := by
    cases run with
    | nil => exact absurd rfl hne
    | cons x run => simpa using hrun x List.mem_cons_self
  have hdrop : (run ++ 0x00 :: rest).dropWhile (· != 0) = 0x00 :: rest := by
    rw [List.dropWhile_append_of_pos (by simpa using hrun)]
    rfl
  rw [unpadBlock, minBE_os2ip_zeros_append hhead hlen, hdrop]

theorem unpadBlock_of_noSeparator {z : Nat} {run : List Byte} (hrun : ∀ x ∈ run, x ≠ 0x00)
    (hlen : (List.replicate z 0x00 ++ run).length = 128) :
    unpadBlock (List.replicate z 0x00 ++ run) = .error .errNosep := by
  have hhead : run.head? ≠ some 0 := fun h => hrun 0 (List.mem_of_mem_head? h) rfl
  have hdrop : run.dropWhile (· != 0) = [] := List.dropWhile_eq_nil_iff.2 (by simpa using hrun)
  rw [unpadBlock, minBE_os2ip_zeros_append hhead hlen, hdrop]

/-! ### Stripping a padded block (R97) -/

/-- Byte 0 is the only leading zero, and the run of `02` before the separator is not empty. -/
theorem unpadBlock_padBlock {ch : List Byte} (h : ch.length ≤ 117) :
    unpadBlock (padBlock ch) = .ok ch := by
  have hlen := padBlock_length h
  rw [padBlock_eq] at hlen ⊢
  refine unpadBlock_of_separator (z := 1) ?nonempty ?nonzero hlen
  case nonempty =>
    rw [ne_eq, List.replicate_eq_nil_iff]
    omega
  case nonzero =>
    intro x hx
    rw [List.eq_of_mem_replicate hx]
    decide

/-- Settles O50: a padded block has the form the search succeeds on, and in a block of zeros nothing
is left to search. -/
theorem unpadInvertsPad : Obligations.UnpadInvertsPad := by
  refine ⟨fun _ => unpadBlock_padBlock, ?zeros⟩
  case zeros =>
    have h := unpadBlock_of_noSeparator (z := 128) (run := []) (by simp) (by simp)
    rwa [List.append_nil] at h

end Sys2Proof.Machine
end

section
/-! Cutting a byte string (44_pipeline.md R107, R111): pieces at multiples of a fixed length, and
the chunks and blocks as two such cuts. -/

namespace Sys2Proof.Machine

/-! ### Pieces of a fixed length -/

/-- The pieces that a ceiling division counts are those that begin inside the string. -/
theorem lt_ceilDiv_iff {a b k : Nat} (hb : 0 < b) : k < ceilDiv a b ↔ b * k < a := by
  rw [ceilDiv, ← Nat.succ_le_iff, Nat.le_div_iff_mul_le hb, Nat.succ_mul, Nat.mul_comm k]
  omega

theorem slice_min_length (s : List Byte) (i j : Nat) :
    slice s i (min j s.length) = slice s i j := by
  rw [slice, slice, ← List.take_eq_take_min]

/-- Each piece begins where the one before it ends. -/
theorem flatten_map_slice (s : List Byte) (m k : Nat) :
    ((List.range k).map fun i => slice s (m * i) (m * (i + 1))).flatten = s.take (m * k) := by
  induction k with
  | zero => rfl
  | succ k ih =>
    rw [List.range_succ, List.map_append, List.map_singleton, List.flatten_concat, ih, slice,
      List.drop_take, Nat.mul_succ, Nat.add_sub_cancel_left, List.take_add]

/-- A join of strings of one length, cut at that length, gives the strings back. -/
theorem slice_flatten {pieces : List (List Byte)} {m i : Nat} (hm : ∀ x ∈ pieces, x.length = m)
    (h : i < pieces.length) : slice pieces.flatten (m * i) (m * i + m) = pieces[i] := by
  have hlens : pieces.map List.length = List.replicate pieces.length m :=
    List.eq_replicate_iff.2 ⟨List.length_map _, by simpa using hm⟩
  have hsum {k : Nat} (hk : k ≤ pieces.length) : ((pieces.map List.length).take k).sum = m * k := by
    rw [hlens, List.take_replicate, List.sum_replicate, smul_eq_mul, Nat.min_eq_left hk,
      Nat.mul_comm]
  rw [← List.drop_take_succ_flatten_eq_getElem pieces i h, hsum h, hsum h.le, slice, Nat.mul_succ]

/-! ### Chunks (R107) -/

theorem chunks_eq (b : List Byte) :
    chunks b = (List.range (ceilDiv b.length 117)).map
      fun i => slice b (117 * i) (117 * (i + 1)) := by
  simp only [chunks, slice_min_length]

theorem lt_chunks_length_iff {b : List Byte} {i : Nat} :
    i < (chunks b).length ↔ 117 * i < b.length := by
  rw [chunks_length, lt_ceilDiv_iff (by decide)]

/-- The last chunk reaches the end of the buffer. -/
theorem length_le_chunks_length (b : List Byte) : b.length ≤ 117 * (chunks b).length :=
  Nat.not_lt.1 fun h => lt_irrefl _ (lt_chunks_length_iff.2 h)

theorem chunks_flatten (b : List Byte) : (chunks b).flatten = b := by
  rw [chunks_eq, flatten_map_slice, ← chunks_length,
    List.take_of_length_le (length_le_chunks_length b)]

theorem chunks_getD_length {b : List Byte} {i : Nat} (h : i < (chunks b).length) :
    ((chunks b).getD i []).length = min 117 (b.length - 117 * i) := by
  rw [List.getD_eq_getElem _ _ h]
  simp only [chunks_eq, List.getElem_map, List.getElem_range, slice_length]
  omega

/-- Settles O54: the chunk count puts the beginning of every chunk inside the buffer, and of no
further one, which fixes the length of each. -/
theorem chunksPartition : Obligations.ChunksPartition := by
  intro b hb
  have hpos : 0 < (chunks b).length := lt_chunks_length_iff.2 hb
  have hlast : (chunks b).length - 1 < (chunks b).length := Nat.sub_one_lt_of_lt hpos
  have hlastStart := lt_chunks_length_iff.1 hlast
  have hend := length_le_chunks_length b
  refine ⟨chunks_flatten b, chunks_length b, fun i hi => ?inner, ?last, ?nonempty, ?bounded⟩
  case inner =>
    have hnext := lt_chunks_length_iff.1 hi
    rw [chunks_getD_length (Nat.lt_of_succ_lt hi)]
    omega
  case last =>
    rw [chunks_getD_length hlast]
    omega
  case nonempty => omega
  case bounded => omega

/-! ### Blocks (R111) -/

theorem blocks_getElem (c : List Byte) {k : Nat} (h : k < (blocks c).length) :
    (blocks c)[k] = slice c (128 * k) (128 * k + 128) := by
  simp [blocks]

end Sys2Proof.Machine
end

section
/-! The block cipher pipeline (44_pipeline.md R105 to R111): the blocks of a ciphertext and its
accumulator. -/

namespace Sys2Proof.Machine

/-! ### Encryption (R105 to R109) -/

/-- The seeded buffer with the masks of 10_state.md R34 and R35 written out. -/
theorem seededBuffer_eq (seed p : List Byte) :
    seededBuffer seed p = seed ++ xorAlign (revBytes (xorAlign p [0x8d, 0xa5, 0xa5, 0x8d]))
      [0x78, 0x06, 0xad, 0x4c, 0x33, 0x86, 0x5d, 0x18, 0x4c, 0x01, 0x3f, 0x46] := rfl

theorem seededBuffer_length (seed p : List Byte) :
    (seededBuffer seed p).length = seed.length + p.length := by
  rw [seededBuffer, List.length_append, xorEnc_length]

/-- Every transformed chunk has 128 bytes, so a cut at multiples of 128 finds them again. -/
theorem encryptBytes_slice (n : Nat) {seed p : List Byte} {i : Nat}
    (h : i < ceilDiv (seed.length + p.length) 117) :
    slice (encryptBytes n seed p) (128 * i) (128 * i + 128) =
      modExp n (padBlock ((chunks (seededBuffer seed p)).getD i [])) := by
  have hi : i < (chunks (seededBuffer seed p)).length := by
    rwa [chunks_length, seededBuffer_length]
  rw [encryptBytes, List.flatMap_def, slice_flatten (by simp) (by rwa [List.length_map]),
    List.getElem_map, List.getD_eq_getElem _ _ hi]

/-- Settles O55: the seed alone makes the buffer nonempty, so there is at least one block. -/
theorem encryptBlocks : Obligations.EncryptBlocks := by
  intro n seed p hseed
  have hlen := encryptBytes_length n seed p
  have hpos : 0 < ceilDiv (seed.length + p.length) 117 := (lt_ceilDiv_iff (by decide)).2 (by omega)
  refine ⟨?multiple, hseed ▸ hlen, ?nonempty, fun i hi => ?block⟩
  case multiple => rw [hlen, Nat.mul_mod_right]
  case nonempty => omega
  case block =>
    rw [← seededBuffer_eq]
    exact encryptBytes_slice n (hseed.symm ▸ hi)

/-! ### The accumulator (R111) -/

theorem accumulateBlocks_of_forall₂ {n : Nat} {bs us : List (List Byte)}
    (h : List.Forall₂ (fun b u => unpadBlock (modExp n b) = .ok u) bs us) :
    accumulateBlocks n bs = .ok us.flatten := by
  induction h with
  | nil => rfl
  | cons hu _ ih => exact accumulateBlocks_cons_ok.2 ⟨_, _, hu, ih, List.flatten_cons⟩

theorem accumulateBlocks_of_first_error {n : Nat} {bs : List (List Byte)} {k : Nat} {e : ErrCode}
    (hk : k < bs.length) (hok : ∀ (j : Nat) (hj : j < k), ∃ u, unpadBlock (modExp n bs[j]) = .ok u)
    (herr : unpadBlock (modExp n bs[k]) = .error e) : accumulateBlocks n bs = .error e := by
  induction bs generalizing k with
  | nil => exact absurd hk (Nat.not_lt_zero k)
  | cons b bs ih =>
    rw [accumulateBlocks_cons_error]
    cases k with
    | zero => exact .inl herr
    | succ k =>
      obtain ⟨u, hu⟩ := hok 0 k.succ_pos
      exact .inr ⟨u, hu, ih (Nat.lt_of_succ_lt_succ hk)
        (fun j hj => hok (j + 1) (Nat.succ_lt_succ hj)) herr⟩

/-- Settles O57, by induction on the blocks in both clauses. -/
theorem accumulatorOfBlocks : Obligations.AccumulatorOfBlocks := by
  intro n c block
  have hblock {k : Nat} (hk : k < (blocks c).length) :
      unpadBlock (modExp n (blocks c)[k]) = block k := by
    rw [blocks_getElem]
  refine ⟨fun us hlen hus => ?strips, fun k e hk hok herr => ⟨unpadBlock_error herr, ?fails⟩⟩
  case strips =>
    refine accumulateBlocks_of_forall₂ (List.forall₂_iff_get.2 ⟨?_, fun k hk hku => ?_⟩)
    · rw [blocks_length, hlen]
    · simp only [List.get_eq_getElem]
      rw [hblock hk, hus k hku, List.getD_eq_getElem _ _ hku]
  case fails =>
    have hkb : k < (blocks c).length := by rwa [blocks_length]
    refine accumulateBlocks_of_first_error hkb (fun j hj => ?_) ((hblock hkb).trans herr)
    rw [hblock (hj.trans hkb)]
    exact hok j hj

end Sys2Proof.Machine
end

section
/-! Decoding and encoding of command words (30_encoding.md R65 to R70): the words that decode are
the eleven that `encode` gives. -/

namespace Sys2Proof.Machine

/-! ### The fields of a word -/

theorem opcodeField_toNat (w : Word) : (opcodeField w).toNat = w.toNat % 256 := by
  simp [opcodeField]

theorem rsvdField_toNat (w : Word) : (rsvdField w).toNat = w.toNat / 256 := by
  have hlt := w.isLt
  rw [rsvdField, BitVec.extractLsb'_toNat, Nat.shiftRight_eq_div_pow]
  omega

/-- A word is its two fields: RSVD above OPCODE (R65). -/
theorem word_eq_of_fields {v w : Word} (hrsvd : rsvdField v = rsvdField w)
    (hop : opcodeField v = opcodeField w) : v = w := by
  have hquot := congrArg BitVec.toNat hrsvd
  have hrem := congrArg BitVec.toNat hop
  rw [rsvdField_toNat, rsvdField_toNat] at hquot
  rw [opcodeField_toNat, opcodeField_toNat] at hrem
  exact BitVec.eq_of_toNat_eq (by omega)

theorem encode_fields (i : Instr) :
    rsvdField (encode i) = 0 ∧ opcodeField (encode i) = i.opcode := by
  cases i <;> decide

@[simp] theorem decodeOpcode_opcode (i : Instr) : decodeOpcode i.opcode = some i := by
  cases i <;> rfl

@[simp] theorem decode_encode (i : Instr) : decode (encode i) = some i := by
  obtain ⟨hrsvd, hop⟩ := encode_fields i
  rw [decode, if_pos hrsvd, hop, decodeOpcode_opcode]

theorem eq_encode_of_decode {w : Word} {i : Instr} (h : decode w = some i) : w = encode i := by
  obtain ⟨hrsvd, hop⟩ := fields_of_decode h
  obtain ⟨hrsvd', hop'⟩ := encode_fields i
  exact word_eq_of_fields (hrsvd.trans hrsvd'.symm) (hop.trans hop'.symm)

/-- Settles O2: a word is determined by its two fields, and decoding reads both. -/
theorem decodeExactlyEncodedWords : Obligations.DecodeExactlyEncodedWords := by
  intro w i
  exact ⟨eq_encode_of_decode, fun h => h ▸ decode_encode i⟩

/-- Settles O1: the six words are the encodings of the six commands. -/
theorem tableWordsDecode : Obligations.TableWordsDecode :=
  ⟨decode_encode .nop, decode_encode .xork, decode_encode .kderive, decode_encode .unpad,
    decode_encode .modexp, decode_encode .decrypt⟩

/-! ### The legal words (R68 to R70) -/

/-- The four ranges of R68 leave exactly the OPCODE values of the table. -/
theorem exists_opcode_of_opcodeDefined {w : Word} (h : opcodeDefined w = true) :
    ∃ i : Instr, opcodeField w = i.opcode := by
  have hlt : (opcodeField w).toNat < 256 := (opcodeField w).isLt
  have hcases : (opcodeField w).toNat ∈
      [0x00, 0x01, 0x02, 0x03, 0x04, 0x05, 0x10, 0x11, 0x20, 0x30, 0x31] := by
    simp only [opcodeDefined, Bool.and_eq_true, Bool.not_eq_true', Bool.and_eq_false_iff,
      decide_eq_false_iff_not] at h
    unfold opcodeField at hlt ⊢
    simp only [List.mem_cons, List.not_mem_nil]
    omega
  have table : ∀ n ∈ [0x00, 0x01, 0x02, 0x03, 0x04, 0x05, 0x10, 0x11, 0x20, 0x30, 0x31],
      (decodeOpcode (BitVec.ofNat 8 n)).isSome := by decide
  have hsome := table _ hcases
  rw [BitVec.ofNat_toNat, BitVec.setWidth_eq] at hsome
  obtain ⟨i, hi⟩ := Option.isSome_iff_exists.1 hsome
  exact ⟨i, eq_opcode_of_decodeOpcode hi⟩

theorem decode_isSome_of_wordWellFormed {w : Word} (h : wordWellFormed w = true) :
    (decode w).isSome = true := by
  obtain ⟨hzero, hop⟩ := Bool.and_eq_true_iff.1 h
  have hrsvd : rsvdField w = 0 := beq_iff_eq.1 hzero
  obtain ⟨i, hi⟩ := exists_opcode_of_opcodeDefined hop
  rw [decode, if_pos hrsvd, hi, decodeOpcode_opcode, Option.isSome_some]

/-- Settles O3: a word that is not well formed does not decode, and the OPCODE of a well-formed one
is in the table. -/
theorem decodeRefusesIllegalWords : Obligations.DecodeRefusesIllegalWords := by
  intro w
  cases h : wordWellFormed w with
  | true => exact decode_isSome_of_wordWellFormed h
  | false => rw [decode_eq_none_of_not_wordWellFormed h, Option.isSome_none]

end Sys2Proof.Machine
end

section
/-! Every command's completion answers (40_command.md R76, R77): the checks cover every access of a
body, and what the checks establish covers its write. -/

namespace Sys2Proof.Machine

/-! ### What passed checks establish -/

/-- Check 4 covers the destination of every command; NOP has none. -/
theorem dest_of_checkOperands {i : Instr} {l : Latch} (h : checkOperands i l = none) :
    outMax i l.len.toNat = 0 ∨ l.dst.toNat + outMax i l.len.toNat ≤ Config.dmemSize := by
  by_cases hi : i = .nop
  · subst hi
    exact .inl rfl
  · obtain ⟨-, -, hdst, -⟩ := (checkOperands_eq_none hi).1 h
    exact hdst

/-- The output of a body fits in DMEM once the checks have passed. -/
theorem output_in_dmem {i : Instr} {l : Latch} {out : List Byte} (hc : checkOperands i l = none)
    (hfits : OutputFits i l.len.toNat out) :
    out = [] ∨ l.dst.toNat + out.length ≤ Config.dmemSize := by
  obtain ⟨hle, -⟩ := hfits
  rcases dest_of_checkOperands hc with hzero | hdst
  · exact .inl (List.length_eq_zero_iff.1 (by omega))
  · exact .inr (by omega)

/-- Every body reads LEN bytes at most: the three with a fixed length have passed check 3. -/
theorem bodyOf_answers {i : Instr} {l : Latch} (hc : checkOperands i l = none) (s : State) :
    ∃ r, bodyOf i l s = .ok r := by
  by_cases hi : i = .nop
  · subst hi
    exact ⟨_, rfl⟩
  obtain ⟨hlen, hsrc, -⟩ := (checkOperands_eq_none hi).1 hc
  cases i
  case nop => exact absurd rfl hi
  case kderive =>
    have hfixed : l.len.toNat = 16 := by simpa [lengthError] using hlen
    exact ⟨_, State.withSource_of_le _ (hfixed ▸ hsrc)⟩
  case unpad | modexp =>
    have hfixed : l.len.toNat = 128 := by simpa [lengthError] using hlen
    exact ⟨_, State.withSource_of_le _ (hfixed ▸ hsrc)⟩
  all_goals exact ⟨_, State.withSource_of_le _ hsrc⟩

/-! ### A completion, from what its body answers -/

theorem exec_checkFail {i : Instr} {s : State} {l : Latch} {e : ErrCode} (hl : s.inflight = some l)
    (hc : checkOperands i l = some e) : exec i s = .next (s.failCommand e) := by
  rw [exec_eq_runCommand, runCommand_checkFail hl hc]

theorem exec_bodyFail {i : Instr} {s : State} {l : Latch} {e : ErrCode} (hl : s.inflight = some l)
    (hc : checkOperands i l = none) (hb : bodyOf i l s = .ok (.fail e)) :
    exec i s = .next ((s.havoc l.dst.toNat (outMax i l.len.toNat)).failCommand e) := by
  rw [exec_eq_runCommand, runCommand_bodyFail hl hc hb]

/-- A successful body's write is never refused, so the command completes with its result. -/
theorem exec_ok {i : Instr} {s : State} {l : Latch} {out : Option (List Byte)} {key : Option Key}
    (hl : s.inflight = some l) (hc : checkOperands i l = none)
    (hb : bodyOf i l s = .ok (.ok out key)) :
    ∃ t, exec i s = .next t ∧ s.succeed l.dst.toNat out key = .ok t := by
  have hs := State.succeed_eq_ok (s := s) (key := key).2
    ⟨output_in_dmem hc (bodyOf_outputFits hc hb), rfl⟩
  exact ⟨_, (exec_eq_runCommand i s).trans (runCommand_ok hl hc hb hs), hs⟩

theorem exec_answers (i : Instr) {s : State} {l : Latch} (hl : s.inflight = some l) :
    ∃ t, exec i s = .next t := by
  cases hc : checkOperands i l with
  | some e => exact ⟨_, exec_checkFail hl hc⟩
  | none =>
    obtain ⟨r, hr⟩ := bodyOf_answers hc s
    cases r with
    | fail e => exact ⟨_, exec_bodyFail hl hc hr⟩
    | ok out key =>
      obtain ⟨t, ht, -⟩ := exec_ok hl hc hr
      exact ⟨t, ht⟩

/-- Settles O5: the one agent whose step could stop is the engine, and every completion answers. -/
theorem stepAlwaysAnswers : Obligations.StepAlwaysAnswers := by
  intro s
  obtain ⟨-, ⟨-, h⟩ | ⟨l, i, hl, -, h⟩ | ⟨l, -, -, h⟩⟩ | ⟨a, -, h⟩ | ⟨-, h⟩ := step_cases s
  case inl.inr.inl =>
    obtain ⟨t, ht⟩ := exec_answers i (s := s.pop) hl
    exact ⟨t, h.trans ht⟩
  all_goals exact ⟨_, h⟩

/-- What the next state is, by the agent that steps. -/
theorem step_next_cases {s t : State} (h : step s = .next t) :
    (s.enginesTurn ∧
      ((s.inflight = none ∧ t = s.pop) ∨
        (∃ l i, s.inflight = some l ∧ decode l.word = some i ∧ exec i s.pop = .next t) ∨
        ∃ l, s.inflight = some l ∧ decode l.word = none ∧ t = s.pop.failCommand .errOpcode)) ∨
      (∃ a, s.arrivals.head? = some (.access a) ∧ t = s.pop.access a) ∨
      (s.arrivals.head? = some .hardReset ∧ t = s.pop.hardReset) := by
  have next {u : State} (hu : step s = .next u) : t = u :=
    Host.Outcome.next.inj (h.symm.trans hu)
  obtain ⟨hturn, ⟨hl, hs⟩ | ⟨l, i, hl, hd, hs⟩ | ⟨l, hl, hd, hs⟩⟩ | ⟨a, ha, hs⟩ | ⟨ha, hs⟩ :=
    step_cases s
  · exact .inl ⟨hturn, .inl ⟨hl, next hs⟩⟩
  · exact .inl ⟨hturn, .inr (.inl ⟨l, i, hl, hd, hs.symm.trans h⟩)⟩
  · exact .inl ⟨hturn, .inr (.inr ⟨l, hl, hd, next hs⟩)⟩
  · exact .inr (.inl ⟨a, ha, next hs⟩)
  · exact .inr (.inr ⟨ha, next hs⟩)

/-- Settles O4: the four cases of `step`, by the event at the head of the list. -/
theorem stepRunsDecodedCommand : Obligations.StepRunsDecodedCommand := by
  intro s
  refine ⟨fun l i hturn hl hd _ => ?engine, fun hturn hl => ?idle, fun a ha => step_access ha,
    step_hardReset⟩
  case engine => exact (step_engine hturn).trans (engineTurn_decoded (s := s.pop) hl hd)
  case idle => exact (step_engine hturn).trans (engineTurn_idle (s := s.pop) hl)

end Sys2Proof.Machine
end

section
/-! The invariant `Inv`: every update of the state that a step is made of keeps it. -/

namespace Sys2Proof.Machine

/-! ### Updates of registers and flags -/

/-- An update that leaves DMEM, the draws, the command, ERRCODE and OUTLEN as they are, and sets
neither DONE nor ERR, keeps the invariant. -/
theorem Inv.of_unchanged {s t : State} (h : Inv s) (hdmem : t.dmem = s.dmem)
    (hdraw : t.dmemDraw = s.dmemDraw) (hdraws : t.draws = s.draws)
    (hinflight : t.inflight = s.inflight) (herrcode : t.errcode = s.errcode)
    (houtlen : t.outlen = s.outlen) (hdone : t.done = true → s.done = true)
    (herr : t.err = true → s.err = true) : Inv t where
  wf := hdmem ▸ h.wf
  inRange := by
    unfold State.dmemInRange
    exact hdmem ▸ h.inRange
  clean hbusy := by
    have hbusy' : s.busy = true := by rwa [State.busy, hinflight] at hbusy
    obtain ⟨hd, he, hcode, hout⟩ := h.clean hbusy'
    rw [herrcode, houtlen]
    exact ⟨Bool.eq_false_iff.2 fun ht => by simp [hdone ht] at hd,
      Bool.eq_false_iff.2 fun ht => by simp [herr ht] at he, hcode, hout⟩
  reported := by
    obtain ⟨hle, hcode⟩ := h.reported
    unfold State.errorReported
    rw [herrcode]
    exact ⟨hle, fun ht => hcode (herr ht)⟩
  outlenOk := by
    unfold State.outlenBounded
    rw [herrcode, houtlen]
    exact h.outlenOk
  fresh := by
    unfold State.drawsFresh
    rw [hdraw, hdraws]
    exact h.fresh

theorem Inv.pop {s : State} (h : Inv s) : Inv s.pop :=
  h.of_unchanged rfl rfl rfl rfl rfl rfl id id

/-- A launch sets the flags that BUSY asks for. -/
theorem Inv.launch {s : State} (h : Inv s) (w : Word) : Inv (s.launch w) where
  wf := h.wf
  inRange := h.inRange
  clean _ := ⟨rfl, rfl, rfl, rfl⟩
  reported := ⟨by simp, by simp⟩
  outlenOk := ⟨fun _ => rfl, by simp⟩
  fresh := h.fresh

theorem Inv.resetRegisters {s : State} (h : Inv s) : Inv s.resetRegisters where
  wf := h.wf
  inRange := h.inRange
  clean _ := ⟨rfl, rfl, rfl, rfl⟩
  reported := ⟨by simp, by simp⟩
  outlenOk := ⟨fun _ => rfl, by simp⟩
  fresh := h.fresh

theorem Inv.hardReset {s : State} (h : Inv s) : Inv s.hardReset where
  wf := List.Pairwise.nil
  inRange := by simp [State.dmemInRange]
  clean := h.resetRegisters.clean
  reported := h.resetRegisters.reported
  outlenOk := h.resetRegisters.outlenOk
  fresh := Nat.lt_succ_self s.draws

/-! ### Updates of DMEM -/

theorem dmemInRange_putBytes {s : State} (h : s.dmemInRange) {a : Nat} {v : List Byte}
    (hv : v = [] ∨ a + v.length ≤ Config.dmemSize) : (s.putBytes a v).dmemInRange := by
  intro c hc
  rcases Memory.mem_setBytes hc with ⟨hlo, hhi⟩ | hold
  · rcases hv with rfl | hv
    · simp only [List.length_nil] at hhi
      omega
    · omega
  · exact h c hold

theorem Inv.putBytes {s : State} (h : Inv s) {a : Nat} {v : List Byte}
    (hv : v = [] ∨ a + v.length ≤ Config.dmemSize) : Inv (s.putBytes a v) where
  wf := Memory.wf_setBytes h.wf a v
  inRange := dmemInRange_putBytes h.inRange hv
  clean := h.clean
  reported := h.reported
  outlenOk := h.outlenOk
  fresh := h.fresh

/-- A fresh draw is a write of DMEM bytes that advances the counter. -/
theorem Inv.havoc {s : State} (h : Inv s) {a n : Nat} (hn : n = 0 ∨ a + n ≤ Config.dmemSize) :
    Inv (s.havoc a n) :=
  have hput : Inv (s.putBytes a ((List.range n).map fun i => Config.freeByte s.draws (a + i))) :=
    h.putBytes (by simpa using hn)
  { wf := hput.wf
    inRange := hput.inRange
    clean := h.clean
    reported := h.reported
    outlenOk := h.outlenOk
    fresh := Nat.lt_succ_of_lt h.fresh }

/-- Only a command whose checks pass may have written anything (R136), and then in DMEM. -/
theorem abandonedBytes_in_dmem (l : Latch) :
    abandonedBytes l = 0 ∨ l.dst.toNat + abandonedBytes l ≤ Config.dmemSize := by
  unfold abandonedBytes
  split
  next => exact .inl rfl
  next i _ =>
    split_ifs with hc
    · exact dest_of_checkOperands hc
    · exact .inl rfl

theorem Inv.softReset {s : State} (h : Inv s) : Inv s.softReset := by
  obtain ⟨-, heq⟩ | ⟨l, -, heq⟩ := s.softReset_cases
  · exact heq ▸ h.resetRegisters
  · exact heq ▸ (h.havoc (abandonedBytes_in_dmem l)).resetRegisters

/-! ### Host accesses -/

theorem Inv.writeCtrl {s : State} (h : Inv s) (v : Word) : Inv (s.writeCtrl v) := by
  unfold State.writeCtrl
  split
  · exact h.softReset
  · exact h.of_unchanged rfl rfl rfl rfl rfl rfl id id

theorem Inv.writeStatus {s : State} (h : Inv s) (v : Word) : Inv (s.writeStatus v) :=
  h.of_unchanged rfl rfl rfl rfl rfl rfl (fun ht => (Bool.and_eq_true_iff.1 ht).1)
    fun ht => (Bool.and_eq_true_iff.1 ht).1

theorem Inv.writeReg {s : State} (h : Inv s) (v : Word) (r : Reg) : Inv (s.writeReg v r) := by
  cases r
  case cmd => exact h.launch v
  case status => exact h.writeStatus v
  case ctrl => exact h.writeCtrl v
  all_goals exact h.of_unchanged rfl rfl rfl rfl rfl rfl id id

theorem Inv.hostRead {s : State} (h : Inv s) (off w : Nat) : Inv (s.hostRead off w) := by
  obtain ⟨v, heq | ⟨-, heq⟩⟩ := s.hostRead_cases off w
  all_goals
    rw [heq]
    exact h.of_unchanged rfl rfl rfl rfl rfl rfl id id

theorem Inv.hostWrite {s : State} (h : Inv s) (off w : Nat) (v : Word) :
    Inv (s.hostWrite off w v) := by
  obtain heq | heq | ⟨r, -, heq⟩ | ⟨a, ht, heq⟩ := s.hostWrite_cases off w v
  all_goals rw [heq]
  · exact h
  · exact h.of_unchanged rfl rfl rfl rfl rfl rfl id id
  · exact h.writeReg v r
  · obtain ⟨-, hw, -, hlt, hal⟩ := target_eq_dmem ht
    exact h.putBytes (.inr (by simpa using dmem_end_of_aligned hw hal hlt))

theorem Inv.access {s : State} (h : Inv s) (a : Access) : Inv (s.access a) := by
  cases a with
  | read off w => exact h.hostRead off w
  | write off w v => exact h.hostWrite off w v

/-! ### Completions -/

theorem ErrCode.code_toNat_le (e : ErrCode) : e.code.toNat ≤ 7 := by
  cases e <;> decide

theorem ErrCode.code_ne_zero (e : ErrCode) : e.code ≠ 0 := by
  cases e <;> decide

/-- An error keeps OUTLEN, which the launch has cleared. -/
theorem Inv.failCommand {s : State} (h : Inv s) (hout : s.outlen = 0) (e : ErrCode) :
    Inv (s.failCommand e) where
  wf := h.wf
  inRange := h.inRange
  clean := by simp [State.launchedClean, State.busy]
  reported := ⟨e.code_toNat_le, fun _ => e.code_ne_zero⟩
  outlenOk := ⟨fun _ => hout, by simp [hout]⟩
  fresh := h.fresh

/-- A success keeps ERR and ERRCODE, which the launch has cleared. -/
theorem Inv.succeed {s t : State} (h : Inv s) (herr : s.err = false) (hcode : s.errcode = 0)
    {dst : Nat} {out : Option (List Byte)} {key : Option Key}
    (hs : s.succeed dst out key = .ok t) : Inv t := by
  have hok := State.succeed_completedOk hs
  obtain ⟨hfits, rfl⟩ := State.succeed_eq_ok.1 hs
  have hput := h.putBytes hfits
  have hle : (out.getD []).length ≤ Config.dmemSize := by
    rcases hfits with hnil | hle
    · simp [hnil]
    · omega
  exact
    { wf := hput.wf
      inRange := hput.inRange
      clean := by simp [State.launchedClean, State.busy]
      reported := by simp [State.errorReported, herr, hcode]
      outlenOk := ⟨fun hne => absurd hcode hne, hok.outlen.trans_le hle⟩
      fresh := h.fresh }

theorem Inv.exec {s t : State} (h : Inv s) {i : Instr} (hs : exec i s = .next t) : Inv t := by
  rw [exec_eq_runCommand] at hs
  obtain ⟨l, hl, hcases⟩ := runCommand_cases hs
  obtain ⟨-, herr, hcode, hout⟩ := h.clean (State.busy_eq_true.2 ⟨l, hl⟩)
  obtain ⟨e, -, rfl⟩ | ⟨hc, e, -, rfl⟩ | ⟨-, out, key, -, hok⟩ := hcases
  · exact h.failCommand hout e
  · exact (h.havoc (dest_of_checkOperands hc)).failCommand hout e
  · exact h.succeed herr hcode hok

/-! ### The statements -/

/-- Settles O6, by the agent whose step it is; each agent's updates keep the invariant, a completion
because BUSY comes with clean flags. -/
theorem stepKeepsInvariant : Obligations.StepKeepsInvariant := by
  intro s t hs hstep
  obtain ⟨-, ⟨-, rfl⟩ | ⟨l, i, -, -, hexec⟩ | ⟨l, hl, -, rfl⟩⟩ | ⟨a, -, rfl⟩ | ⟨-, rfl⟩ :=
    step_next_cases hstep
  · exact hs.pop
  · exact hs.pop.exec hexec
  · obtain ⟨-, -, -, hout⟩ := hs.clean (State.busy_eq_true.2 ⟨l, hl⟩)
    exact hs.pop.failCommand hout .errOpcode
  · exact hs.pop.access a
  · exact hs.pop.hardReset

/-- Settles O7: nothing is recorded in DMEM, no command is in flight and every flag is clear. -/
theorem resetMeetsInvariant : Obligations.ResetMeetsInvariant where
  wf := reset_memory_wf
  inRange := by simp [State.dmemInRange, State.reset]
  clean _ := ⟨rfl, rfl, rfl, rfl⟩
  reported := ⟨Nat.zero_le _, fun herr => absurd herr (by decide)⟩
  outlenOk := ⟨fun _ => rfl, Nat.zero_le _⟩
  fresh := Nat.zero_lt_one

end Sys2Proof.Machine
end

section
/-! The end of a command and of a run (40_command.md R75, R77; 70_reset_and_hazards.md R148). -/

namespace Sys2Proof.Machine

/-! ### What every completion does -/

theorem exec_finishes {i : Instr} {s t : State} (h : exec i s = .next t) :
    t.inflight = none ∧ t.done = true ∧ SameOutside s t := by
  cases hl : s.inflight with
  | none => simp [exec_idle i hl] at h
  | some l =>
    obtain ⟨e, n, -, hfail⟩ | ⟨out, key, -, hok⟩ := exec_completes hl h
    · exact ⟨hfail.inflight, hfail.done, hfail.outside⟩
    · exact ⟨hok.inflight, hok.done, hok.outside⟩

/-- The engine's turn with a command in flight: the meaning of a legal word, or check 1's error. -/
theorem engineTurn_cases {s t : State} {l : Latch} (hl : s.inflight = some l)
    (h : engineTurn s = .next t) :
    (∃ i, decode l.word = some i ∧ exec i s = .next t) ∨
      (decode l.word = none ∧ t = s.failCommand .errOpcode) := by
  cases hd : decode l.word with
  | some i => exact .inl ⟨i, rfl, (engineTurn_decoded hl hd).symm.trans h⟩
  | none =>
    exact .inr ⟨rfl, Host.Outcome.next.inj (h.symm.trans (engineTurn_illegal hl hd))⟩

theorem engineTurn_finishes {s t : State} {l : Latch} (hl : s.inflight = some l)
    (h : engineTurn s = .next t) : t.inflight = none ∧ t.done = true ∧ SameOutside s t := by
  obtain ⟨i, -, hexec⟩ | ⟨-, rfl⟩ := engineTurn_cases hl h
  · exact exec_finishes hexec
  · exact ⟨rfl, rfl, (failCommand_completedErr s .errOpcode 0).outside⟩

/-- Settles O28: irq is IRQ_EN and DONE, and a completion keeps the first and sets the second. -/
theorem everyCompletionSetsDone : Obligations.EveryCompletionSetsDone := by
  intro s t hbusy h
  obtain ⟨l, hl⟩ := State.busy_eq_true.1 hbusy
  obtain ⟨hinflight, hdone, hout⟩ := engineTurn_finishes hl h
  refine ⟨hinflight, State.busy_eq_false.2 hinflight, hdone, ?irq⟩
  case irq => rw [State.irq, hdone, hout.irqEn, Bool.and_true]

/-! ### Every step takes one event -/

@[simp] theorem State.softReset_arrivals (s : State) : s.softReset.arrivals = s.arrivals := by
  obtain ⟨-, heq⟩ | ⟨l, -, heq⟩ := s.softReset_cases <;> simp [heq]

@[simp] theorem State.writeReg_arrivals (s : State) (v : Word) (r : Reg) :
    (s.writeReg v r).arrivals = s.arrivals := by
  cases r
  case ctrl =>
    rw [State.writeReg, State.writeCtrl]
    split
    · exact s.softReset_arrivals
    · rfl
  all_goals rfl

@[simp] theorem State.access_arrivals (s : State) (a : Access) :
    (s.access a).arrivals = s.arrivals := by
  cases a with
  | read off w =>
    obtain ⟨v, heq | ⟨-, heq⟩⟩ := s.hostRead_cases off w <;> rw [State.access, heq]
  | write off w v =>
    rw [State.access]
    obtain heq | heq | ⟨r, -, heq⟩ | ⟨a, -, heq⟩ := s.hostWrite_cases off w v <;> simp [heq]

theorem step_arrivals {s t : State} (h : step s = .next t) : t.arrivals = s.arrivals.tail := by
  obtain ⟨-, ⟨-, rfl⟩ | ⟨l, i, -, -, hexec⟩ | ⟨l, -, -, rfl⟩⟩ | ⟨a, -, rfl⟩ | ⟨-, rfl⟩ :=
    step_next_cases h
  case inl.inr.inl =>
    obtain ⟨-, -, hout⟩ := exec_finishes hexec
    exact hout.arrivals
  all_goals simp

/-- With no event left the engine completes what is in flight (log entry 7). -/
theorem step_inflight_of_arrivals_nil {s t : State} (ha : s.arrivals = [])
    (h : step s = .next t) : t.inflight = none := by
  obtain ⟨-, ⟨hl, rfl⟩ | ⟨l, i, -, -, hexec⟩ | ⟨l, -, -, rfl⟩⟩ | ⟨a, harr, -⟩ | ⟨harr, -⟩ :=
    step_next_cases h
  · exact hl
  · obtain ⟨hinflight, -⟩ := exec_finishes hexec
    exact hinflight
  · rfl
  all_goals simp [ha] at harr

/-! ### Runs -/

theorem run_succ {M : Host.Core} {s t : M.State} (h : M.step s = .next t) (k : Nat) :
    M.run (k + 1) s = M.run k t := by
  rw [Host.Core.run, h]

/-- One step per waiting event, and one more for the command that may still be in flight. -/
theorem run_ends {n : Nat} {s : State} (hn : s.arrivals.length = n) :
    ∃ t : State, Host.Core.run core (n + 1) s = .next t ∧ t.arrivals = [] ∧ t.inflight = none := by
  induction n generalizing s with
  | zero =>
    have hnil : s.arrivals = [] := List.length_eq_zero_iff.1 hn
    obtain ⟨t, ht⟩ := stepAlwaysAnswers s
    have harr : t.arrivals = [] := by rw [step_arrivals ht, hnil, List.tail_nil]
    exact ⟨t, run_succ (M := core) ht 0, harr, step_inflight_of_arrivals_nil hnil ht⟩
  | succ n ih =>
    obtain ⟨u, hu⟩ := stepAlwaysAnswers s
    have hlen : u.arrivals.length = n := by
      rw [step_arrivals hu, List.length_tail, hn, Nat.add_sub_cancel]
    obtain ⟨t, ht, hend⟩ := ih hlen
    exact ⟨t, (run_succ (M := core) hu (n + 1)).trans ht, hend⟩

/-- Settles O8: the run that takes every waiting event and one engine's turn ends both. -/
theorem launchedCommandEnds : Obligations.LaunchedCommandEnds := by
  refine ⟨fun s _ => ?command, fun s => ?run⟩
  case command =>
    obtain ⟨t, ht, -, hinflight⟩ := run_ends (s := s) rfl
    exact ⟨_, t, le_rfl, ht, State.busy_eq_false.2 hinflight⟩
  case run =>
    obtain ⟨t, ht, harr, hinflight⟩ := run_ends (s := s) rfl
    exact ⟨_, t, le_rfl, ht, by rw [harr]; rfl, hinflight⟩

end Sys2Proof.Machine
end

section
/-! The resets (70_reset_and_hazards.md section 1) and the parameters (section 2). -/

namespace Sys2Proof.Machine

theorem reset_read (r : Reg) :
    (State.reset.access (.read r.offset 4)).rdata = State.reset.regValue r := by
  rw [access_read_register rfl]

theorem reset_read_zero : ∀ off ∈ [0x008, 0x00C, 0x010, 0x014, 0x018, 0x01C, 0x020, 0x030, 0x034,
    0x038], (State.reset.access (.read off 4)).rdata = 0 := by
  simp only [List.forall_mem_cons]
  exact ⟨reset_read .cmd, reset_read .status, reset_read .ctrl, reset_read .src, reset_read .len,
    reset_read .dst, reset_read .outlen, reset_read .key0, reset_read .key1, reset_read .key2,
    List.forall_mem_nil _⟩

/-- With nothing recorded every DMEM byte is the free byte of the current draw (log entry 5). -/
theorem State.byteAt_of_dmem_nil {s : State} (h : s.dmem = []) (a : Nat) :
    s.byteAt a = Config.freeByte s.dmemDraw a := by
  rw [State.byteAt, h]
  rfl

/-- Settles O9: the reset state is idle, so no register is locked. -/
theorem resetState : Obligations.ResetState := by
  refine ⟨reset_read .id, reset_read .version, reset_read .dmemsz, reset_read_zero, rfl, rfl, rfl,
    rfl, rfl, rfl, rfl, rfl, rfl, State.reset.dmemDraw, ?free⟩
  case free => exact State.byteAt_of_dmem_nil rfl

/-- Settles O10: the hard reset clears every register and records nothing in DMEM. -/
theorem hardResetFromAnyState : Obligations.HardResetFromAnyState := by
  intro s t ha h
  obtain rfl := Host.Outcome.next.inj (h.symm.trans (step_hardReset ha))
  refine ⟨rfl, rfl, rfl, rfl, rfl, rfl, rfl, rfl, rfl, rfl, rfl, rfl, rfl, ?free, ?fresh⟩
  case free => exact State.byteAt_of_dmem_nil rfl
  case fresh => exact Nat.lt_succ_self s.draws

/-- Settles O11, from the bounds built into the open parameters. -/
theorem configurationAdmissible : Obligations.ConfigurationAdmissible := by
  have hsize : Config.params.sizeOk = true := by
    simp only [Config.Params.sizeOk, Bool.and_eq_true, beq_iff_eq, decide_eq_true_eq]
    exact ⟨⟨Config.dmemSize_mod, Config.dmemSize_ge⟩, Config.dmemSize_le⟩
  have hkt : Config.params.ktOk = true := decide_eq_true Config.ktLen_ge
  have hmodN : Config.params.modNOk = true := by
    simp only [Config.Params.modNOk, Bool.and_eq_true, beq_iff_eq, decide_eq_true_eq]
    rw [show Config.params.modN = Config.modN from rfl]
    exact ⟨⟨Config.modN_lower, Config.modN_upper⟩, Config.modN_odd⟩
  have hseed : Config.params.seedOk = true := beq_iff_eq.2 Config.encSeed_length
  unfold Obligations.ConfigurationAdmissible Config.Params.admissible
  rw [hsize, hkt, hmodN, hseed]
  rfl

end Sys2Proof.Machine
end

section
/-! What a block strips to (42_padding.md R96). -/

namespace Sys2Proof.Machine

/-- Settles O51: each form of the block is the one that the search's lemma speaks of, and a
successful search has passed a nonempty run and the separator. -/
theorem unpadSearch : Obligations.UnpadSearch := by
  intro b hlen
  refine ⟨fun z body rest hb hne hbody => ?separator, fun z body hb hbody => ?noSeparator,
    fun u => unpadBlock_length_le⟩
  case separator =>
    have heq : b = List.replicate z 0x00 ++ (body ++ 0x00 :: rest) := by simpa using hb
    subst heq
    exact unpadBlock_of_separator hne hbody hlen
  case noSeparator =>
    subst hb
    exact unpadBlock_of_noSeparator hbody hlen

end Sys2Proof.Machine
end

section
/-! The result and the frame of every command whose checks pass (40_command.md R75). -/

namespace Sys2Proof.Machine

/-! ### Check 3 and the ranges, as the statements give them -/

theorem lengthError_eq_none_iff {i : Instr} {n : Nat} :
    lengthError i n = none ↔ ¬lengthIllegal i n := by
  cases i <;> simp [lengthError, lengthIllegal]

theorem checkOperands_of_fits {i : Instr} {l : Latch} (hi : i ≠ .nop)
    (hlen : ¬lengthIllegal i l.len.toNat) (hfits : l.fits (outMax i l.len.toNat)) :
    checkOperands i l = none :=
  (checkOperands_eq_none hi).2 ⟨lengthError_eq_none_iff.2 hlen, hfits⟩

/-! ### Completions as whole effects -/

theorem exec_completedOk {i : Instr} {s : State} {l : Latch} {out : Option (List Byte)}
    {key : Option Key} (hl : s.inflight = some l) (hc : checkOperands i l = none)
    (hb : bodyOf i l s = .ok (.ok out key)) :
    ∃ t, exec i s = .next t ∧ CompletedOk s t l.dst.toNat (out.getD []) (key.getD s.kreg) := by
  obtain ⟨t, ht, hs⟩ := exec_ok hl hc hb
  exact ⟨t, ht, State.succeed_completedOk hs⟩

theorem exec_completedErr {i : Instr} {s : State} {l : Latch} {e : ErrCode}
    (hl : s.inflight = some l) (hc : checkOperands i l = none)
    (hb : bodyOf i l s = .ok (.fail e)) :
    ∃ t, exec i s = .next t ∧ CompletedErr s t e l.dst.toNat (outMax i l.len.toNat) :=
  ⟨_, exec_bodyFail hl hc hb, havoc_failCommand_completedErr s e _ _⟩

/-- The body of a command whose ranges fit is its function of the source bytes. -/
theorem bodyOf_of_fits {i : Instr} {s : State} {l : Latch} {n : Nat} {f : List Byte → BodyResult}
    (hfits : l.fits n) (hf : bodyOf i l s = s.withSource l.src.toNat l.len.toNat f) :
    bodyOf i l s = .ok (f (s.sourceBytes l)) := by
  obtain ⟨hsrc, -⟩ := hfits
  exact hf.trans (State.withSource_of_le f hsrc)

/-- A command with a legal length and ranges that fit completes with what its function of the source
bytes gives. -/
theorem exec_of_fits (i : Instr) {s : State} {l : Latch} {f : List Byte → BodyResult}
    {out : Option (List Byte)} {key : Option Key} (hl : s.inflight = some l) (hi : i ≠ .nop)
    (hlen : ¬lengthIllegal i l.len.toNat) (hfits : l.fits (outMax i l.len.toNat))
    (hf : bodyOf i l s = s.withSource l.src.toNat l.len.toNat f)
    (hres : f (s.sourceBytes l) = .ok out key) :
    ∃ t, exec i s = .next t ∧ CompletedOk s t l.dst.toNat (out.getD []) (key.getD s.kreg) :=
  exec_completedOk hl (checkOperands_of_fits hi hlen hfits) (hres ▸ bodyOf_of_fits hfits hf)

theorem exec_fail_of_fits (i : Instr) {s : State} {l : Latch} {f : List Byte → BodyResult}
    {e : ErrCode} (hl : s.inflight = some l) (hi : i ≠ .nop)
    (hlen : ¬lengthIllegal i l.len.toNat) (hfits : l.fits (outMax i l.len.toNat))
    (hf : bodyOf i l s = s.withSource l.src.toNat l.len.toNat f)
    (hres : f (s.sourceBytes l) = .fail e) :
    ∃ t, exec i s = .next t ∧ CompletedErr s t e l.dst.toNat (outMax i l.len.toNat) :=
  exec_completedErr hl (checkOperands_of_fits hi hlen hfits) (hres ▸ bodyOf_of_fits hfits hf)

/-- Where no byte is written the destination does not matter. -/
theorem CompletedOk.of_nil {s t : State} {dst : Nat} {key : Key} (h : CompletedOk s t dst [] key)
    (dst' : Nat) : CompletedOk s t dst' [] key :=
  have empty (base a : Nat) : ¬inRange base ([] : List Byte).length a := fun ⟨hlo, hhi⟩ =>
    absurd hhi (Nat.not_lt.2 hlo)
  { h with
    stored := fun a ha => absurd ha (empty dst' a)
    kept := fun a _ => h.kept a (empty dst a) }

/-! ### Commands without an error of their own -/

@[simp] theorem State.sourceBytes_length (s : State) (l : Latch) :
    (s.sourceBytes l).length = l.len.toNat :=
  s.bytesAt_length _ _

/-- Settles O12: NOP has no check and no output. -/
theorem nopResult : Obligations.NopResult := by
  intro s l hl
  obtain ⟨t, ht, hok⟩ := exec_completedOk (out := none) (key := none) hl (checkOperands_nop l) rfl
  exact ⟨t, ht, hok.of_nil 0⟩

/-- Settles O13: the two bodies are the aligned XOR with their masks. -/
theorem maskCommandsResult : Obligations.MaskCommandsResult := by
  refine ⟨fun s l => ⟨s.sourceBytes_length l, fun i => s.bytesAt_getD _ _ i⟩,
    fun s l hl hfits => ⟨?xor4, ?xor12⟩⟩
  case xor4 => exact exec_of_fits .xor4 hl (by decide) (by simp [lengthIllegal]) hfits rfl rfl
  case xor12 => exact exec_of_fits .xor12 hl (by decide) (by simp [lengthIllegal]) hfits rfl rfl

/-- Settles O14: the body is the aligned XOR with KREG. -/
theorem xorkResult : Obligations.XorkResult := by
  intro s l hl hfits
  exact exec_of_fits .xork hl (by decide) (by simp [lengthIllegal]) hfits rfl rfl

/-- Settles O15: the body is the reversal. -/
theorem revResult : Obligations.RevResult := by
  intro s l hl hfits
  exact exec_of_fits .rev hl (by decide) (by simp [lengthIllegal]) hfits rfl rfl

/-- Settles O16: OUTMAX is 0, so the ranges fit whatever DST is, and the key's bytes are those of
`derive` on the head. -/
theorem kderiveResult : Obligations.KderiveResult := by
  intro s l hl hlen hsrc
  have hfits : l.fits 0 := ⟨hlen ▸ hsrc, .inl rfl, by simp⟩
  have hf : bodyOf .kderive l s = s.withSource l.src.toNat l.len.toNat
      fun head => .ok none (some (derive Config.kt head)) := by
    rw [hlen]
    rfl
  obtain ⟨t, ht, hok⟩ :=
    exec_of_fits .kderive hl (by decide) (by simp [lengthIllegal, hlen]) hfits hf rfl
  refine ⟨t, ht, hok.kreg ▸ hok.of_nil 0, fun i => ?byte⟩
  case byte =>
    have hi : i.val < l.len.toNat := by omega
    rw [hok.kreg]
    change (derive Config.kt (s.sourceBytes l))[i.val] = _
    rw [derive_getElem _ _ i.isLt, deriveByte, State.sourceBytes, s.bytesAt_getD _ _ _ hi]

/-- Settles O17: a block's run of `02` is as long as the chunk leaves room for. -/
theorem padResult : Obligations.PadResult := by
  intro s l hl hlen hfits
  obtain ⟨t, ht, hok⟩ := exec_of_fits .pad hl (by decide)
    (by simpa [lengthIllegal] using hlen) hfits rfl rfl
  rw [Option.getD_some, padBlock, s.sourceBytes_length] at hok
  exact ⟨t, ht, hok⟩

theorem modExp_eq (n : Nat) (b : List Byte) :
    modExp n b = i2osp (os2ip b ^ 0x10001 % n) 128 := by
  rw [modExp, Config.expE]

/-- Settles O19: the body is the transform of the one block. -/
theorem modexpResult : Obligations.ModexpResult := by
  intro s l hl hlen hfits
  have hf : bodyOf .modexp l s = s.withSource l.src.toNat l.len.toNat
      fun b => .ok (some (modExp Config.modN b)) none := by
    rw [hlen]
    rfl
  obtain ⟨t, ht, hok⟩ :=
    exec_of_fits .modexp hl (by decide) (by simp [lengthIllegal, hlen]) hfits hf rfl
  rw [Option.getD_some, modExp_eq] at hok
  exact ⟨t, ht, hok⟩

/-- Settles O20: OUTLEN is the length of the encrypted blocks, the seed having 16 bytes. -/
theorem encryptResult : Obligations.EncryptResult := by
  intro s l hl hfits
  obtain ⟨t, ht, hok⟩ := exec_of_fits .encrypt hl (by decide) (by simp [lengthIllegal])
    hfits rfl rfl
  refine ⟨t, ht, hok, ?outlen⟩
  case outlen =>
    rw [hok.outlen, Option.getD_some, encryptBytes_length, Config.encSeed_length,
      s.sourceBytes_length]

/-! ### UNPAD and DECRYPT -/

/-- Settles O18: what the source strips to is O51's, and the body passes it on. -/
theorem unpadResult_holds : Obligations.UnpadResult := by
  intro s l hl hlen hfits
  obtain ⟨hstrips, hfails, -⟩ := unpadSearch (s.sourceBytes l) ((s.sourceBytes_length l).trans hlen)
  have hlegal : ¬lengthIllegal .unpad l.len.toNat := by simp [lengthIllegal, hlen]
  have hf : bodyOf .unpad l s = s.withSource l.src.toNat l.len.toNat unpadResult := by
    rw [hlen]
    rfl
  refine ⟨fun z body rest hb hne hbody => ?strips, fun z body hb hbody => ?fails⟩
  case strips =>
    exact exec_of_fits .unpad hl (by decide) hlegal hfits hf
      (unpadResult_ok (hstrips z body rest hb hne hbody))
  case fails =>
    exact exec_fail_of_fits .unpad hl (by decide) hlegal hfits hf
      (unpadResult_fail (hfails z body hb hbody))

theorem accumulate_error {n : Nat} {c : List Byte} {e : ErrCode}
    (h : accumulate n c = .error e) : e = .errNosep := by
  unfold accumulate at h
  generalize blocks c = bs at h
  induction bs with
  | nil => cases h
  | cons b bs ih =>
    rcases accumulateBlocks_cons_error.1 h with hhead | ⟨-, -, htail⟩
    · exact unpadBlock_error hhead
    · exact ih htail

/-- Settles O21, by what the accumulator is: each outcome of `decryptBytes` is the body's. -/
theorem decryptResult_holds : Obligations.DecryptResult := by
  intro s l hl hlen hfits
  have hlegal : ¬lengthIllegal .decrypt l.len.toNat := by simp [lengthIllegal, hlen]
  have fails {e : ErrCode} (h : decryptBytes Config.modN Config.kt (s.sourceBytes l) = .error e) :=
    exec_fail_of_fits .decrypt hl (by decide) hlegal hfits (decryptBody_eq l s)
      (decryptResult_fail h)
  cases hacc : accumulate Config.modN (s.sourceBytes l) with
  | error e =>
    obtain rfl := accumulate_error hacc
    exact fails (decryptBytes_error.2 (.inl hacc))
  | ok acc =>
    by_cases hshort : acc.length < 16
    · simp only [if_pos hshort]
      exact fails (decryptBytes_error.2 (.inr ⟨acc, hacc, hshort, rfl⟩))
    · simp only [if_neg hshort]
      exact exec_of_fits .decrypt hl (by decide) hlegal hfits (decryptBody_eq l s)
        (decryptResult_ok (decryptBytes_ok.2 ⟨acc, hacc, Nat.not_lt.1 hshort, rfl, rfl⟩))

end Sys2Proof.Machine
end

section
/-! Completions with an error (60_exceptions.md sections 1 to 3): which code, and what it
changes. -/

namespace Sys2Proof.Machine

/-! ### What checks 2 to 5 report -/

/-- The error that check 3 reports for an illegal length. -/
theorem lengthError_of_illegal {i : Instr} {n : Nat} (h : lengthIllegal i n) :
    lengthError i n = some (if i = .decrypt then .errNotBlocks else .errLen) := by
  obtain ⟨rfl, hn⟩ | ⟨rfl, hn⟩ | ⟨rfl, hn⟩ | ⟨rfl, hn⟩ | ⟨rfl, hn⟩ := h <;>
    exact if_pos hn

theorem ne_nop_of_lengthIllegal {i : Instr} {n : Nat} (h : lengthIllegal i n) : i ≠ .nop := by
  rintro rfl
  simp [lengthIllegal] at h

theorem checkOperands_of_illegal {i : Instr} {l : Latch} (h : lengthIllegal i l.len.toNat) :
    checkOperands i l = some (if i = .decrypt then .errNotBlocks else .errLen) := by
  rw [checkOperands, if_neg (ne_nop_of_lengthIllegal h), lengthError_of_illegal h]

theorem checkOperands_errOverlap {i : Instr} {l : Latch} (hi : i ≠ .nop)
    (hlen : ¬lengthIllegal i l.len.toNat) (hsrc : l.src.toNat + l.len.toNat ≤ Config.dmemSize)
    (hdst : outMax i l.len.toNat = 0 ∨ l.dst.toNat + outMax i l.len.toNat ≤ Config.dmemSize)
    (hfits : ¬l.fits (outMax i l.len.toNat)) : checkOperands i l = some .errOverlap := by
  have hoverlap : rangesOverlap l (outMax i l.len.toNat) = true := by
    rw [rangesOverlap_iff]
    exact Decidable.not_not.1 fun h => hfits ⟨hsrc, hdst, h⟩
  simp [checkOperands, hi, lengthError_eq_none_iff.2 hlen, sourceInDmem_iff.2 hsrc,
    destInDmem_iff.2 hdst, hoverlap]

theorem exec_checkFail_completedErr {i : Instr} {s : State} {l : Latch} {e : ErrCode}
    (hl : s.inflight = some l) (hc : checkOperands i l = some e) :
    ∃ t, exec i s = .next t ∧ CompletedErr s t e 0 0 :=
  ⟨_, exec_checkFail hl hc, failCommand_completedErr s e 0⟩

/-- Settles O22: check 3 comes before the ranges. -/
theorem illegalLengthCompletes : Obligations.IllegalLengthCompletes := by
  intro s l i hl hillegal
  exact exec_checkFail_completedErr hl (checkOperands_of_illegal hillegal)

/-- Settles O23: check 4 is made on naturals. -/
theorem rangeErrorCompletes : Obligations.RangeErrorCompletes := by
  intro s l i hl hi hlen hrange
  exact exec_checkFail_completedErr hl
    (checkOperands_errRange hi (lengthError_eq_none_iff.2 hlen) hrange)

/-- Settles O24: a common address makes both ranges nonempty and lets neither end before the other
begins. -/
theorem overlapErrorCompletes : Obligations.OverlapErrorCompletes := by
  rintro s l i hl hlen hsrc hdst ⟨a, ⟨hsrcLo, hsrcHi⟩, hdstLo, hdstHi⟩
  have hi : i ≠ .nop := by
    rintro rfl
    simp only [outMax] at hdstHi
    omega
  have hfits : ¬l.fits (outMax i l.len.toNat) := by
    rintro ⟨-, -, hdisjoint⟩
    omega
  exact exec_checkFail_completedErr hl (checkOperands_errOverlap hi hlen hsrc (.inr hdst) hfits)

/-! ### Which error a completion takes -/

/-- Everything that a completion of the record `l` can be. -/
theorem exec_cases {i : Instr} {s t : State} {l : Latch} (hl : s.inflight = some l)
    (h : exec i s = .next t) :
    (∃ e, checkOperands i l = some e ∧ t = s.failCommand e) ∨
      (checkOperands i l = none ∧ ∃ e, bodyOf i l s = .ok (.fail e) ∧
        t = (s.havoc l.dst.toNat (outMax i l.len.toNat)).failCommand e) ∨
      (checkOperands i l = none ∧ ∃ out key, bodyOf i l s = .ok (.ok out key) ∧
        s.succeed l.dst.toNat out key = .ok t) := by
  rw [exec_eq_runCommand] at h
  obtain ⟨l', hl', hcases⟩ := runCommand_cases h
  obtain rfl := Option.some.inj (hl.symm.trans hl')
  exact hcases

theorem unpadResult_eq_fail {b : List Byte} {e : ErrCode} (h : unpadResult b = .fail e) :
    unpadBlock b = .error e := by
  cases hu : unpadBlock b with
  | error f =>
    rw [unpadResult_fail hu] at h
    exact congrArg _ (BodyResult.fail.inj h)
  | ok u => simp [unpadResult_ok hu] at h

theorem decryptResult_eq_fail {c : List Byte} {e : ErrCode} (h : decryptResult c = .fail e) :
    decryptBytes Config.modN Config.kt c = .error e := by
  cases hd : decryptBytes Config.modN Config.kt c with
  | error f =>
    rw [decryptResult_fail hd] at h
    exact congrArg _ (BodyResult.fail.inj h)
  | ok pk => simp [decryptResult_ok hd] at h

/-- Check 6: only UNPAD and DECRYPT have errors of their own. -/
theorem bodyOf_fail {i : Instr} {l : Latch} {s : State} {e : ErrCode}
    (h : bodyOf i l s = .ok (.fail e)) :
    (e = .errNosep ∧ (i = .unpad ∨ i = .decrypt)) ∨ (e = .errShort ∧ i = .decrypt) := by
  cases i
  case nop => cases h
  case unpad =>
    obtain ⟨-, hres⟩ := State.withSource_eq_ok (f := unpadResult).1 h
    exact .inl ⟨unpadBlock_error (unpadResult_eq_fail hres), .inl rfl⟩
  case decrypt =>
    obtain ⟨-, hres⟩ := State.withSource_eq_ok (f := decryptResult).1 h
    rcases decryptBytes_error.1 (decryptResult_eq_fail hres) with hacc | ⟨-, -, -, he⟩
    · exact .inl ⟨accumulate_error hacc, .inr rfl⟩
    · exact .inr ⟨he, rfl⟩
  all_goals
    obtain ⟨-, hres⟩ := State.withSource_eq_ok.1 h
    cases hres

/-- The error of check 2 to 5 leaves every DMEM byte as it was, so it is none of check 6's. -/
theorem checkOperands_error {i : Instr} {l : Latch} {e : ErrCode}
    (h : checkOperands i l = some e) : e ≠ .errNosep ∧ e ≠ .errShort := by
  by_cases hlen : lengthIllegal i l.len.toNat
  · obtain rfl := Option.some.inj ((checkOperands_of_illegal hlen).symm.trans h)
    split_ifs <;> decide
  · unfold checkOperands at h
    rw [lengthError_eq_none_iff.2 hlen] at h
    split_ifs at h <;> cases h <;> decide

/-! ### Which code a completion reports -/

/-- Once the checks have passed the code is the body's, 6 or 7, or what it was. -/
theorem errcode_of_checks {i : Instr} {s t : State} {l : Latch} (hl : s.inflight = some l)
    (hc : checkOperands i l = none) (h : exec i s = .next t) :
    t.errcode = s.errcode ∨ (t.errcode = 0x06 ∧ (i = .unpad ∨ i = .decrypt)) ∨
      (t.errcode = 0x07 ∧ i = .decrypt) := by
  obtain ⟨e, hsome, -⟩ | ⟨-, e, hbody, rfl⟩ | ⟨-, out, key, -, hs⟩ := exec_cases hl h
  · simp [hc] at hsome
  · obtain ⟨rfl, hi⟩ | ⟨rfl, hi⟩ := bodyOf_fail hbody
    · exact .inr (.inl ⟨rfl, hi⟩)
    · exact .inr (.inr ⟨rfl, hi⟩)
  · exact .inl (State.succeed_completedOk hs).errcode

/-- Settles O26: each branch of the premise says which check is the first to fail. -/
theorem errorPriority : Obligations.ErrorPriority := by
  intro s t l hl _ hcode h
  refine ⟨fun hword => ?illegalWord, fun i hword => ?legalWord⟩
  case illegalWord =>
    have hturn := engineTurn_illegal hl (decode_eq_none_of_not_wordWellFormed hword)
    obtain rfl := Host.Outcome.next.inj (h.symm.trans hturn)
    rfl
  case legalWord =>
    have hexec : exec i s = .next t :=
      (engineTurn_decoded hl (hword ▸ decode_encode i)).symm.trans h
    have code_of_check {e : ErrCode} (hc : checkOperands i l = some e) : t.errcode = e.code := by
      obtain rfl := Host.Outcome.next.inj (hexec.symm.trans (exec_checkFail hl hc))
      rfl
    have code_of_checks (hc : checkOperands i l = none) := hcode ▸ errcode_of_checks hl hc hexec
    refine ⟨fun hi => ?nop, fun hi => ⟨fun hlen => ?length, fun hlen => ⟨fun hrange => ?range,
      fun ⟨hsrc, hdst⟩ => ⟨fun hfits => ?overlap, fun hfits => ?body⟩⟩⟩⟩
    case nop =>
      subst hi
      simpa using code_of_checks (checkOperands_nop l)
    case length =>
      rw [code_of_check (checkOperands_of_illegal hlen)]
      split_ifs <;> rfl
    case range =>
      exact code_of_check (checkOperands_errRange hi (lengthError_eq_none_iff.2 hlen) (by omega))
    case overlap => exact code_of_check (checkOperands_errOverlap hi hlen hsrc hdst hfits)
    case body => exact code_of_checks (checkOperands_of_fits hi hlen hfits)

/-! ### What an error changes -/

/-- A completion that sets ERR is one of checks 1 to 5, which change nothing else, or one of check
6, which frees the destination range. -/
theorem engineTurn_error {s t : State} {l : Latch} (hl : s.inflight = some l)
    (herr : s.err = false) (h : engineTurn s = .next t) (hterr : t.err = true) :
    (∃ e, e ≠ .errNosep ∧ e ≠ .errShort ∧ t = s.failCommand e) ∨
      ∃ i e, decode l.word = some i ∧ (e = .errNosep ∨ e = .errShort) ∧
        t = (s.havoc l.dst.toNat (outMax i l.len.toNat)).failCommand e := by
  obtain ⟨i, hd, hexec⟩ | ⟨-, rfl⟩ := engineTurn_cases hl h
  · obtain ⟨e, hc, rfl⟩ | ⟨-, e, hbody, rfl⟩ | ⟨-, out, key, -, hs⟩ := exec_cases hl hexec
    · obtain ⟨hnosep, hshort⟩ := checkOperands_error hc
      exact .inl ⟨e, hnosep, hshort, rfl⟩
    · exact .inr ⟨i, e, hd, (bodyOf_fail hbody).imp And.left And.left, rfl⟩
    · simp [(State.succeed_completedOk hs).err, herr] at hterr
  · exact .inl ⟨.errOpcode, by decide, by decide, rfl⟩

/-- Settles O27: both kinds of error keep OUTLEN and KREG, and only check 6's frees a byte. -/
theorem errorEffects : Obligations.ErrorEffects := by
  intro s t l hl herr hout h hterr
  obtain ⟨e, hnosep, hshort, rfl⟩ | ⟨i, e, hd, hbody, rfl⟩ := engineTurn_error hl herr h hterr
  · refine ⟨hout, rfl, e, rfl, fun _ _ a => State.byteAt_congr rfl rfl a, fun hbody => ?_⟩
    exact absurd hbody (by simp [hnosep, hshort])
  · refine ⟨hout, rfl, e, rfl, fun hnosep hshort => ?_, fun _ => ⟨i, hd, ?_⟩⟩
    · exact absurd hbody (by simp [hnosep, hshort])
    · exact havoc_failCommand_completedErr s e _ _

end Sys2Proof.Machine
end

section
/-! What a completion reads and what changes KREG (10_state.md R29, R39). -/

namespace Sys2Proof.Machine

/-! ### The latched operands (R39) -/

/-- The state with other values in SRC, LEN and DST. -/
def State.withOperands (s : State) (a b c : Word) : State := { s with src := a, len := b, dst := c }

/-- A body reads DMEM and KREG, and its operands from the latched record. -/
theorem bodyOf_withOperands (i : Instr) (l : Latch) (s : State) (a b c : Word) :
    bodyOf i l (s.withOperands a b c) = bodyOf i l s := by
  cases i <;> rfl

theorem succeed_withOperands {s t : State} {dst : Nat} {out : Option (List Byte)}
    {key : Option Key} (h : s.succeed dst out key = .ok t) (a b c : Word) :
    (s.withOperands a b c).succeed dst out key = .ok (t.withOperands a b c) := by
  obtain ⟨hfits, rfl⟩ := State.succeed_eq_ok.1 h
  exact State.succeed_eq_ok.2 ⟨hfits, rfl⟩

/-- Settles O30: the checks and the body are of the latched record, and what a completion does with
their answer keeps SRC, LEN and DST. -/
theorem engineReadsLatchedOperands : Obligations.EngineReadsLatchedOperands := by
  intro i s t a b c h
  change exec i (s.withOperands a b c) = .next (t.withOperands a b c)
  cases hl : s.inflight with
  | none => simp [exec_idle i hl] at h
  | some l =>
    have hl' : (s.withOperands a b c).inflight = some l := hl
    obtain ⟨e, hc, rfl⟩ | ⟨hc, e, hbody, rfl⟩ | ⟨hc, out, key, hbody, hs⟩ := exec_cases hl h
    · exact exec_checkFail hl' hc
    · exact exec_bodyFail hl' hc ((bodyOf_withOperands i l s a b c).trans hbody)
    · rw [exec_eq_runCommand]
      exact runCommand_ok hl' hc ((bodyOf_withOperands i l s a b c).trans hbody)
        (succeed_withOperands hs a b c)

/-! ### The writers of KREG (R29) -/

/-- Only two commands answer a key. -/
theorem bodyOf_key {i : Instr} {l : Latch} {s : State} {out : Option (List Byte)} {k : Key}
    (h : bodyOf i l s = .ok (.ok out (some k))) : i = .kderive ∨ i = .decrypt := by
  cases i
  case kderive => exact .inl rfl
  case decrypt => exact .inr rfl
  case nop => cases h
  case unpad =>
    obtain ⟨-, hres⟩ := State.withSource_eq_ok (f := unpadResult).1 h
    obtain ⟨u, hu, -⟩ := unpadResult_eq_ok hres
    simp [unpadResult_ok hu] at hres
  all_goals
    obtain ⟨-, hres⟩ := State.withSource_eq_ok.1 h
    cases hres

theorem exec_kreg {i : Instr} {s t : State} {l : Latch} (hl : s.inflight = some l)
    (h : exec i s = .next t) (hk : t.kreg ≠ s.kreg) : i = .kderive ∨ i = .decrypt := by
  obtain ⟨e, -, rfl⟩ | ⟨-, e, -, rfl⟩ | ⟨-, out, key, hbody, hs⟩ := exec_cases hl h
  · exact absurd rfl hk
  · exact absurd rfl hk
  · cases key with
    | none => exact absurd (State.succeed_completedOk hs).kreg hk
    | some k => exact bodyOf_key hbody

/-- Registers whose writes change KREG: the three windows on it, and CTRL by the soft reset. -/
theorem writeReg_kreg {s : State} {v : Word} {r : Reg} (hk : (s.writeReg v r).kreg ≠ s.kreg) :
    (r = .key0 ∨ r = .key1 ∨ r = .key2) ∨ (r = .ctrl ∧ v.getLsbD 1 = true) := by
  cases r
  case key0 | key1 | key2 => simp
  case ctrl =>
    rw [State.writeReg, State.writeCtrl] at hk
    split at hk
    next hbit => exact .inr ⟨rfl, hbit⟩
    next => exact absurd rfl hk
  all_goals exact absurd rfl hk

theorem access_kreg {s : State} {a : Access} (hk : (s.access a).kreg ≠ s.kreg) :
    (s.busy = false ∧ ∃ off v, a = .write off 4 v ∧ off ∈ [0x030, 0x034, 0x038]) ∨
      ∃ v : Word, a = .write 0x010 4 v ∧ v.getLsbD 1 = true := by
  cases a with
  | read off w =>
    obtain ⟨v, heq | ⟨-, heq⟩⟩ := s.hostRead_cases off w
    all_goals
      rw [State.access, heq] at hk
      exact absurd rfl hk
  | write off w v =>
    rw [State.access] at hk
    obtain heq | heq | ⟨r, ht, heq⟩ | ⟨a, -, heq⟩ := s.hostWrite_cases off w v
    case inr.inr.inl =>
      rw [heq] at hk
      obtain ⟨rfl, hoff, hlock⟩ := target_eq_register ht
      obtain rfl := regAt_eq_some_iff.1 hoff
      obtain hkey | ⟨rfl, hbit⟩ := writeReg_kreg hk
      · have hidle : s.busy = false := by
          rcases hkey with rfl | rfl | rfl <;> simpa [Reg.writeLocked] using hlock
        refine .inl ⟨hidle, _, v, rfl, ?_⟩
        rcases hkey with rfl | rfl | rfl <;> decide
      · exact .inr ⟨v, rfl, hbit⟩
    all_goals
      rw [heq] at hk
      exact absurd rfl hk

/-- Settles O31, by the agent whose step it is. -/
theorem kregWriters : Obligations.KregWriters := by
  intro s t h hk
  obtain ⟨hturn, ⟨-, rfl⟩ | ⟨l, i, hl, hd, hexec⟩ | ⟨l, -, -, rfl⟩⟩ | ⟨a, ha, rfl⟩ | ⟨ha, -⟩ :=
    step_next_cases h
  · exact absurd rfl hk
  · exact .inl ⟨hturn, l, i, hl, hd, exec_kreg (s := s.pop) hl hexec hk⟩
  · exact absurd rfl hk
  · obtain ⟨hidle, off, v, rfl, hoff⟩ | ⟨v, rfl, hbit⟩ := access_kreg (s := s.pop) hk
    · exact .inr (.inl ⟨hidle, off, v, ha, hoff⟩)
    · exact .inr (.inr (.inl ⟨v, ha, hbit⟩))
  · exact .inr (.inr (.inr ha))

end Sys2Proof.Machine
end

section
/-! Refusal and the registers that the host writes (10_state.md section 3, 20_memory.md R47,
R58). -/

namespace Sys2Proof.Machine

/-! ### The causes of refusal (R47) -/

theorem refusalCause_registers {busy : Bool} {locked : List Nat} {off w : Nat}
    (hw : w = 1 ∨ w = 2 ∨ w = 4) (hlt : off < 0x100) :
    refusalCause busy locked off w ↔
      ¬(w = 4 ∧ off % 4 = 0) ∨ (busy = true ∧ w = 4 ∧ off ∈ locked) := by
  have houtside : ¬inRange 0x01000000 Config.dmemSize off := fun ⟨hlo, _⟩ => by omega
  simp only [refusalCause, hw, hlt, houtside, true_and, false_and, not_true, or_false]

theorem refusalCause_dmem {busy : Bool} {locked : List Nat} {a w : Nat}
    (hw : w = 1 ∨ w = 2 ∨ w = 4) (hlt : a < Config.dmemSize) (hnot : 0x01000000 + a ∉ locked) :
    refusalCause busy locked (0x01000000 + a) w ↔ a % w ≠ 0 ∨ busy = true := by
  have hinside : inRange 0x01000000 Config.dmemSize (0x01000000 + a) := ⟨by omega, by omega⟩
  have hreg : ¬0x01000000 + a < 0x100 := by omega
  simp only [refusalCause, hw, hreg, hnot, hinside, Nat.add_sub_cancel_left, true_and, false_and,
    and_false, not_true, or_false, false_or]

theorem not_refusalCause_unmapped {busy : Bool} {locked : List Nat} {off w : Nat}
    (hw : w = 1 ∨ w = 2 ∨ w = 4) (hnot : off ∉ locked)
    (h : (0x100 ≤ off ∧ off ≤ 0x00FFFFFF) ∨ 0x01000000 + Config.dmemSize ≤ off) :
    ¬refusalCause busy locked off w := by
  have houtside : ¬inRange 0x01000000 Config.dmemSize off := fun ⟨hlo, hhi⟩ => by omega
  have hreg : ¬off < 0x100 := by omega
  simp only [refusalCause, hw, hreg, hnot, houtside, false_and, and_false, not_true, or_false,
    not_false_eq_true]

/-- In the register region the width and the alignment decide, and then the lock. -/
theorem target_registers_refused_iff {busy : Bool} {lockedReg : Reg → Bool} {locked : List Nat}
    (hlocked : ∀ r : Reg, r.offset ∈ locked ↔ lockedReg r = true)
    (hnamed : ∀ off ∈ locked, ∃ r : Reg, off = r.offset) {off w : Nat}
    (hw : w = 1 ∨ w = 2 ∨ w = 4) (hlt : off < 0x100) :
    target busy lockedReg off w = .refused ↔
      ¬(w = 4 ∧ off % 4 = 0) ∨ (busy = true ∧ w = 4 ∧ off ∈ locked) := by
  by_cases hal : w = 4 ∧ off % 4 = 0
  case neg => simp [target, hw, hlt, hal, Config.registerEnd]
  obtain ⟨rfl, halign⟩ := hal
  cases hreg : regAt off with
  | none =>
    have hnot : off ∉ locked := fun hmem => by
      obtain ⟨r, rfl⟩ := hnamed off hmem
      simp at hreg
    simp [target_reserved busy lockedReg hlt halign hreg, hnot, halign]
  | some r =>
    obtain rfl := regAt_eq_some_iff.1 hreg
    simp [target_offset, hlocked r, halign]

/-- The target is refused exactly for the causes of R47. -/
theorem target_eq_refused_iff {busy : Bool} {lockedReg : Reg → Bool} {locked : List Nat}
    (hlocked : ∀ r : Reg, r.offset ∈ locked ↔ lockedReg r = true)
    (hnamed : ∀ off ∈ locked, ∃ r : Reg, off = r.offset) {off w : Nat} :
    target busy lockedReg off w = .refused ↔ refusalCause busy locked off w := by
  by_cases hw : w = 1 ∨ w = 2 ∨ w = 4
  case neg => simp [target, refusalCause, hw]
  by_cases hreg : off < 0x100
  case pos =>
    rw [refusalCause_registers hw hreg, target_registers_refused_iff hlocked hnamed hw hreg]
  have hnot : off ∉ locked := fun hmem => by
    obtain ⟨r, rfl⟩ := hnamed off hmem
    exact hreg r.offset_lt
  by_cases hdmem : inRange 0x01000000 Config.dmemSize off
  case pos =>
    obtain ⟨hlo, hhi⟩ := hdmem
    obtain ⟨a, rfl⟩ := Nat.exists_eq_add_of_le hlo
    have ha : a < Config.dmemSize := by omega
    rw [refusalCause_dmem hw ha hnot, target_inDmem busy lockedReg hw ha]
    cases busy <;> by_cases hal : a % w = 0 <;> simp [hal]
  case neg =>
    have hunmapped : (0x100 ≤ off ∧ off ≤ 0x00FFFFFF) ∨ 0x01000000 + Config.dmemSize ≤ off := by
      unfold inRange at hdmem
      omega
    simp [target_unmapped busy lockedReg hw hunmapped, not_refusalCause_unmapped hw hnot hunmapped]

theorem target_read_refused_iff {busy : Bool} {off w : Nat} :
    target busy Reg.readLocked off w = .refused ↔ refusalCause busy lockedOffsets off w :=
  target_eq_refused_iff (fun _ => Reg.offset_mem_lockedOffsets) fun off hmem => by
    obtain ⟨r, hr, -⟩ := exists_readLocked_of_mem hmem
    exact ⟨r, hr⟩

theorem target_write_refused_iff {busy : Bool} {off w : Nat} :
    target busy Reg.writeLocked off w = .refused ↔
      refusalCause busy (0x008 :: lockedOffsets) off w := by
  refine target_eq_refused_iff (fun r => ?locked) fun off hmem => ?named
  case locked => cases r <;> decide
  case named =>
    rcases List.mem_cons.1 hmem with rfl | hmem
    · exact ⟨.cmd, rfl⟩
    · obtain ⟨r, hr, -⟩ := exists_readLocked_of_mem hmem
      exact ⟨r, hr⟩

/-- Settles O36: an access is refused exactly when its target is, and no other access sets
ACCERR. -/
theorem refusalCausesAndEffects : Obligations.RefusalCausesAndEffects := by
  intro s off w v
  rw [← target_read_refused_iff, ← target_write_refused_iff]
  refine ⟨fun h => ?readRefused, fun h => ?readAccepted, fun h => ?writeRefused,
    fun h hacc => ?writeAccepted⟩
  case readRefused => simp [State.access, State.hostRead, h, State.setAccerr]
  case readAccepted =>
    obtain ⟨x, heq | ⟨hrefused, -⟩⟩ := s.hostRead_cases off w
    · rw [State.access, heq]
    · exact absurd hrefused h
  case writeRefused => simp [State.access, State.hostWrite, h, State.setAccerr]
  case writeAccepted =>
    rw [State.access, State.hostWrite] at hacc
    cases ht : target s.busy Reg.writeLocked off w with
    | refused => exact absurd ht h
    | register r => exact accerr_of_writeReg (by simpa [ht] using hacc)
    | reserved | dmem | unmapped => simpa [ht] using hacc

/-! ### A command's data while it is in flight (R58) -/

/-- The registers that can be written while busy change no data of a command, the soft reset apart,
which ends it. -/
theorem writeReg_busy {s : State} {v : Word} {r : Reg} (hr : r.writeLocked = false)
    (hbusy : (s.writeReg v r).busy = true) :
    (s.writeReg v r).inflight = s.inflight ∧ (s.writeReg v r).kreg = s.kreg ∧
      ∀ b, (s.writeReg v r).byteAt b = s.byteAt b := by
  cases r
  case id | version | status | dmemsz => exact ⟨rfl, rfl, State.byteAt_congr rfl rfl⟩
  case ctrl =>
    rw [State.writeReg, State.writeCtrl] at hbusy ⊢
    split at hbusy
    · obtain ⟨-, heq⟩ | ⟨l, -, heq⟩ := s.softReset_cases <;> simp [heq, State.busy] at hbusy
    · next hbit =>
      rw [if_neg hbit]
      exact ⟨rfl, rfl, State.byteAt_congr rfl rfl⟩
  all_goals cases hr

/-- Settles O32: DMEM and the locked registers refuse, the rest keeps the command's data. -/
theorem commandDataStableWhileBusy : Obligations.CommandDataStableWhileBusy := by
  intro s a hbusy hbusy'
  cases a with
  | read off w =>
    obtain ⟨v, heq | ⟨-, heq⟩⟩ := s.hostRead_cases off w
    all_goals
      rw [State.access, heq]
      exact ⟨rfl, rfl, State.byteAt_congr rfl rfl⟩
  | write off w v =>
    rw [State.access] at hbusy' ⊢
    obtain heq | heq | ⟨r, ht, heq⟩ | ⟨a, ht, -⟩ := s.hostWrite_cases off w v
    case inr.inr.inl =>
      obtain ⟨-, -, hlock⟩ := target_eq_register ht
      rw [heq] at hbusy' ⊢
      exact writeReg_busy (hlock hbusy) hbusy'
    case inr.inr.inr =>
      obtain ⟨hidle, -⟩ := target_eq_dmem ht
      simp [hbusy] at hidle
    all_goals
      rw [heq]
      exact ⟨rfl, rfl, State.byteAt_congr rfl rfl⟩

/-! ### SRC, LEN, DST, OUTLEN and CMD (R21, R24 to R27) -/

theorem access_read_idle {s : State} (hidle : s.busy = false) (r : Reg) :
    s.access (.read r.offset 4) = { s with rdata := s.regValue r } :=
  access_read_register (by simp [hidle])

theorem access_write_idle {s : State} (hidle : s.busy = false) (r : Reg) (v : Word) :
    s.access (.write r.offset 4 v) = s.writeReg v r :=
  access_write_register (by simp [hidle]) v

/-- A register reads what was written to it, where the write stores its value and launches
nothing. -/
theorem access_readBack {s : State} (hidle : s.busy = false) {r : Reg} {v : Word}
    (hidle' : (s.writeReg v r).busy = false) (hval : (s.writeReg v r).regValue r = v) :
    ((s.access (.write r.offset 4 v)).access (.read r.offset 4)).rdata = v := by
  rw [access_write_idle hidle, access_read_idle hidle', hval]

/-- Settles O40: while idle no register is locked, and CMD's reads never are. -/
theorem operandRegistersReadBack : Obligations.OperandRegistersReadBack := by
  refine ⟨fun s v hidle => ⟨access_write_idle hidle .src v, access_write_idle hidle .len v,
    access_write_idle hidle .dst v, ?readBack, access_read_idle hidle .src,
    access_read_idle hidle .len, access_read_idle hidle .dst, access_read_idle hidle .outlen,
    access_write_idle hidle .outlen v⟩, fun s => ?cmd⟩
  case readBack =>
    simp only [List.forall_mem_cons]
    exact ⟨access_readBack (r := .src) hidle hidle rfl, access_readBack (r := .len) hidle hidle rfl,
      access_readBack (r := .dst) hidle hidle rfl, List.forall_mem_nil _⟩
  case cmd => exact access_read_register (r := .cmd) (Bool.and_false _)

/-! ### KEY0 to KEY2 (R29) -/

theorem exists_keyReg (w : Fin 3) :
    ∃ r : Reg, 0x030 + 4 * w.val = r.offset ∧ ∀ s : State, s.regValue r = keyWord s.kreg w ∧
      ∀ v, s.writeReg v r = { s with kreg := setKeyWord s.kreg w v } := by
  match w with
  | 0 => exact ⟨.key0, rfl, fun _ => ⟨rfl, fun _ => rfl⟩⟩
  | 1 => exact ⟨.key1, rfl, fun _ => ⟨rfl, fun _ => rfl⟩⟩
  | 2 => exact ⟨.key2, rfl, fun _ => ⟨rfl, fun _ => rfl⟩⟩

/-- The bytes of a little-endian value are its digits to the base 256. -/
theorem leValue_digit (bs : List Byte) (i : Nat) :
    leValue bs / 256 ^ i % 256 = (bs.getD i 0).toNat := by
  induction bs generalizing i with
  | nil => simp [leValue]
  | cons b bs ih =>
    have hb : b.toNat < 256 := b.isLt
    cases i with
    | zero =>
      simp only [leValue, List.getD_cons_zero]
      omega
    | succ i =>
      have hdiv : (b.toNat + 256 * leValue bs) / 256 = leValue bs := by omega
      rw [leValue, pow_succ', ← Nat.div_div_eq_div_mul, hdiv, ih, List.getD_cons_succ]

theorem leValue_lane {bs : List Byte} (hlen : bs.length ≤ 4) (i : Nat) :
    (BitVec.ofNat 32 (leValue bs)).extractLsb' (8 * i) 8 = bs.getD i 0 := by
  refine BitVec.eq_of_toNat_eq ?_
  rw [BitVec.extractLsb'_toNat, toNat_ofNat_leValue hlen, Nat.shiftRight_eq_div_pow, Nat.pow_mul,
    leValue_digit]

theorem keyWord_lane (k : Key) (w : Nat) {b : Nat} (hb : b < 4) :
    (keyWord k w).extractLsb' (8 * b) 8 = k.toList.getD (4 * w + b) 0 := by
  rw [keyWord, leValue_lane (by simp), List.getD_eq_getElem _ _ (by simpa using hb),
    List.getElem_map, List.getElem_range]

theorem setKeyWord_getD (k : Key) (w : Nat) (v : Word) {i : Nat} (hi : i < 12) :
    (setKeyWord k w v).toList.getD i 0 =
      if i / 4 = w then v.extractLsb' (8 * (i % 4)) 8 else k.toList.getD i 0 := by
  simp [setKeyWord, lane, hi]

/-- Settles O41: the registers are three windows of four lanes on KREG. -/
theorem keyRegisterLanes : Obligations.KeyRegisterLanes := by
  intro s w v hidle
  obtain ⟨r, hoff, hr⟩ := exists_keyReg w
  obtain ⟨hval, hwrite⟩ := hr s
  rw [hoff, access_read_idle hidle, access_write_idle hidle, hval, hwrite]
  exact ⟨fun b => keyWord_lane s.kreg w b.isLt, rfl, fun i => setKeyWord_getD s.kreg w v⟩

/-! ### STATUS and CTRL (R22, R23) -/

theorem statusWord_getLsbD (s : State) (i : Nat) : s.statusWord.getLsbD i =
    if i = 0 then s.busy else if i = 1 then s.done else if i = 2 then s.err
    else if i = 3 then s.accerr else if 8 ≤ i ∧ i < 16 then s.errcode.getLsbD (i - 8)
    else false := by
  simp only [State.statusWord, BitVec.getLsbD_append]
  match i with
  | 0 | 1 | 2 | 3 => simp
  | i + 4 =>
    by_cases hreserved : i < 4
    · simp [hreserved, Nat.not_le.2 hreserved]
    · have hcode : i - 4 < 8 ↔ i + 4 < 16 := by omega
      simp [hreserved, hcode, Nat.not_lt.1 hreserved]

theorem ctrlWord_getLsbD (s : State) (i : Nat) : s.ctrlWord.getLsbD i = (i = 0 && s.irqEn) := by
  rw [State.ctrlWord, BitVec.getLsbD_append]
  cases i <;> simp

theorem access_write_ctrl (s : State) (v : Word) :
    s.access (.write 0x010 4 v) = s.writeCtrl v :=
  access_write_register (r := .ctrl) (Bool.and_false _) v

/-- Settles O42: STATUS and CTRL are never locked. -/
theorem statusAndCtrlFields : Obligations.StatusAndCtrlFields := by
  intro s v
  have readStatus : s.access (.read 0x00C 4) = { s with rdata := s.statusWord } :=
    access_read_register (r := .status) (Bool.and_false _)
  have writeStatus : s.access (.write 0x00C 4 v) = s.writeStatus v :=
    access_write_register (r := .status) (Bool.and_false _) v
  have readCtrl : s.access (.read 0x010 4) = { s with rdata := s.ctrlWord } :=
    access_read_register (r := .ctrl) (Bool.and_false _)
  rw [readStatus, readCtrl]
  refine ⟨fun i _ => statusWord_getLsbD s i, writeStatus, fun i _ => ctrlWord_getLsbD s i,
    fun hbit => ?irqEn⟩
  case irqEn => rw [access_write_ctrl, State.writeCtrl, hbit, if_neg Bool.false_ne_true]

/-! ### The soft reset (70_reset_and_hazards.md R136) -/

/-- The bytes an abandoned command may have written, as the statement names them. -/
theorem inRange_abandonedBytes_iff {l : Latch} {dst a : Nat} :
    inRange dst (abandonedBytes l) a ↔ ∃ i, decode l.word = some i ∧ checkOperands i l = none ∧
      inRange dst (outMax i l.len.toNat) a := by
  have empty : ¬inRange dst 0 a := fun ⟨hlo, hhi⟩ => by omega
  rw [abandonedBytes]
  cases hd : decode l.word with
  | none => simp [empty]
  | some i => by_cases hc : checkOperands i l = none <;> simp [hc, empty]

theorem access_softReset (s : State) {v : Word} (hbit : v.getLsbD 1 = true) :
    s.access (.write 0x010 4 v) = s.softReset := by
  rw [access_write_ctrl, State.writeCtrl, if_pos hbit]

theorem byteAt_softReset_idle {s : State} (hl : s.inflight = none) (a : Nat) :
    s.softReset.byteAt a = s.byteAt a := by
  rw [State.softReset, hl]
  exact State.byteAt_congr rfl rfl a

theorem byteAt_softReset_busy {s : State} {l : Latch} (hl : s.inflight = some l) (a : Nat) :
    (¬inRange l.dst.toNat (abandonedBytes l) a → s.softReset.byteAt a = s.byteAt a) ∧
      (inRange l.dst.toNat (abandonedBytes l) a →
        s.softReset.byteAt a = Config.freeByte s.draws a) := by
  have hbyte := s.byteAt_havoc l.dst.toNat (abandonedBytes l) a
  rw [State.softReset, hl]
  exact ⟨fun hout => hbyte.trans (if_neg hout), fun hin => hbyte.trans (if_pos hin)⟩

/-- Settles O43: a soft reset is a reset of the registers, after the abandoned command's bytes were
made free. -/
theorem softReset : Obligations.SoftReset := by
  intro s v hbit t
  have ht : t = s.softReset := access_softReset s hbit
  rw [ht]
  refine ⟨?registers, fun hl => byteAt_softReset_idle hl, fun l hl a => ?abandoned⟩
  case registers =>
    obtain ⟨-, heq⟩ | ⟨l, -, heq⟩ := s.softReset_cases
    all_goals
      rw [heq]
      exact ⟨rfl, rfl, rfl, rfl, rfl, rfl, rfl, rfl, rfl, rfl, rfl⟩
  case abandoned =>
    rw [← inRange_abandonedBytes_iff]
    exact byteAt_softReset_busy hl a

end Sys2Proof.Machine
end

section
/-! The keystream's positions, the derived key's symmetry and inverse (41_keystream.md R81 to R88),
and the decrypt-side XOR layer (44_pipeline.md R110, R113). -/

namespace Sys2Proof.Machine

/-! ### XorAlign, position by position -/

theorem xorAlign_getD {s k : List Byte} {j : Nat} (h : j < s.length) :
    (xorAlign s k).getD j 0 = s.getD j 0 ^^^ k.getD (ksIdx s.length k.length j) 0 := by
  rw [List.getD_eq_getElem _ _ (by rwa [xorAlign_length]), xorAlign_getElem,
    List.getD_eq_getElem _ _ h]

/-- Settles O44: the key index of R81 is the position before the alignment and counts from it
after. -/
theorem keystreamPositions : Obligations.KeystreamPositions := by
  intro s k _
  refine ⟨xorAlign_length s k, fun j hj => ?byte⟩
  case byte => rw [xorAlign_getD hj, ksIdx, apply_ite (fun i => k.getD i 0)]

/-! ### The derived key (R86, R88) -/

theorem derive_eq_iff {kt : Nat → Byte} {head : List Byte} {target : Key} :
    derive kt head = target ↔ ∀ i : Fin 12, deriveByte kt head i = target[i] := by
  constructor
  · rintro rfl i
    exact (derive_getElem kt head i.isLt).symm
  · intro h
    refine Vector.ext fun i hi => ?_
    rw [derive_getElem kt head hi]
    exact h ⟨i, hi⟩

/-- An exclusive or and an addition modulo 256 are both undone. -/
theorem xor_add_eq_iff (a b h t : Byte) : a ^^^ (h + b) = t ↔ h = (t ^^^ a) - b := by
  rw [BitVec.eq_sub_iff_add_eq]
  constructor
  · rintro rfl
    rw [BitVec.xor_comm a, BitVec.xor_assoc, BitVec.xor_self, BitVec.xor_zero]
  · intro hsum
    rw [hsum, BitVec.xor_comm t, ← BitVec.xor_assoc, BitVec.xor_self, BitVec.zero_xor]

/-- The zero head leaves two KeyTable entries whose indices a reversal exchanges. -/
theorem deriveByte_zero_reverse (kt : Nat → Byte) {i : Nat} (hi : i < 12) :
    deriveByte kt (List.replicate 16 0x00) (11 - i) = deriveByte kt (List.replicate 16 0x00) i := by
  have zero_add {j : Nat} (hj : j < 12) (b : Byte) :
      (List.replicate 16 (0x00 : Byte)).getD j 0 + b = b := by
    rw [List.getD_replicate _ (by omega)]
    exact BitVec.zero_add b
  rw [deriveByte_eq, deriveByte_eq, zero_add (by omega), zero_add hi,
    Nat.sub_sub_self (by omega), BitVec.xor_comm]

theorem derive_zero_palindrome (kt : Nat → Byte) :
    (derive kt (List.replicate 16 0x00)).toList.reverse =
      (derive kt (List.replicate 16 0x00)).toList := by
  refine List.ext_getElem (by simp) fun i _ hi => ?_
  have hi : i < 12 := by simpa using hi
  rw [List.getElem_reverse]
  simp only [Vector.getElem_toList, Vector.length_toList, derive_getElem,
    deriveByte_zero_reverse kt hi]

/-- A KeyTable that differs at index 0 and a symmetric head whose key is no palindrome. -/
theorem exists_symmetric_head_not_palindrome :
    ∃ (kt : Nat → Byte) (head : List Byte), head.length = 16 ∧
      (∀ i < 12, head.getD i 0 = head.getD (11 - i) 0) ∧
      (derive kt head).toList.reverse ≠ (derive kt head).toList :=
  ⟨fun i => if i = 0 then 0x01 else 0x00,
    [0x01, 0, 0, 0, 0, 0, 0, 0, 0, 0, 0, 0x01, 0, 0, 0, 0], by decide⟩

/-- Settles O48: the inverse byte by byte; the last clause by a concrete KeyTable and head. -/
theorem derivePalindromeAndInverse : Obligations.DerivePalindromeAndInverse := by
  refine ⟨fun kt => ⟨derive_zero_palindrome kt, fun target head _ => ?inverse⟩,
    exists_symmetric_head_not_palindrome⟩
  case inverse => simp only [derive_eq_iff, deriveByte, xor_add_eq_iff]

/-- Settles O59: MASK12 is no palindrome. -/
theorem zeroSeedKeyIsNotMask12 : Obligations.ZeroSeedKeyIsNotMask12 := by
  intro kt h
  have hpal := derive_zero_palindrome kt
  rw [h] at hpal
  exact absurd hpal (by decide)

/-! ### The decrypt-side XOR layer (R110) -/

/-- Both layers undo what they do last first. -/
theorem xorDec_xorAlign_revBytes (p k : List Byte) :
    xorDec (xorAlign (revBytes (xorAlign p Config.mask4)) k) k = p := by
  rw [xorDec, xorAlign_xorAlign, revBytes_revBytes, xorAlign_xorAlign]

/-- Settles O56: `xorDec` undoes the encrypt side's three steps for a key of every length. -/
theorem xorDecInverts : Obligations.XorDecInverts :=
  ⟨fun _ _ => rfl, fun p k _ => xorDec_xorAlign_revBytes p k⟩

end Sys2Proof.Machine
end

section
/-! The transform (43_modexp.md R100, R101) and its inversion by the holder of the secret exponent
(44_pipeline.md R113). -/

namespace Sys2Proof.Machine

/-! ### The transform of a block -/

theorem pow_256_128 : 256 ^ 128 = 2 ^ 1024 := by
  rw [show 256 = 2 ^ 8 by rfl, show 1024 = 8 * 128 by rfl, Nat.pow_mul]

/-- A residue of an admissible modulus fits in a block. -/
theorem lt_block_of_lt {n x : Nat} (hn : n < 2 ^ 1024) (hx : x ≤ n) : x < 256 ^ 128 := by
  rw [pow_256_128]
  exact hx.trans_lt hn

theorem pos_of_admissible {n : Nat} (hlo : 2 ^ 1023 ≤ n) : 1 < n :=
  (Nat.one_lt_two_pow (by decide)).trans_le hlo

theorem modExp_i2osp {n x : Nat} (hx : x < 256 ^ 128) :
    modExp n (i2osp x 128) = i2osp (x ^ 0x10001 % n) 128 := by
  rw [modExp_eq, os2ip_i2osp_of_lt hx]

theorem os2ip_modExp {n : Nat} (hlo : 2 ^ 1023 ≤ n) (hn : n < 2 ^ 1024) (b : List Byte) :
    os2ip (modExp n b) = os2ip b ^ 0x10001 % n := by
  have hlt := Nat.mod_lt (os2ip b ^ 0x10001) (Nat.zero_lt_of_lt (pos_of_admissible hlo))
  rw [modExp_eq, os2ip_i2osp_of_lt (lt_block_of_lt hn hlt.le)]

theorem pow_mod_pow_mod (x d e n : Nat) : (x ^ d % n) ^ e % n = x ^ (e * d) % n := by
  rw [← Nat.pow_mod, ← pow_mul, Nat.mul_comm]

/-! ### Fixed points -/

theorem pred_sq_modEq {n : Nat} (hn : 1 < n) : (n - 1) ^ 2 ≡ 1 [MOD n] := by
  obtain ⟨m, rfl⟩ : ∃ m, n = m + 2 := ⟨n - 2, by omega⟩
  have hsq : (m + 2 - 1) ^ 2 = 1 + (m + 2) * m := by
    rw [show m + 2 - 1 = m + 1 by omega]
    ring
  rw [hsq]
  exact Nat.add_mul_mod_self_left 1 (m + 2) m

/-- `n - 1` is `-1` modulo `n`, which an odd power keeps. -/
theorem pred_pow_mod {n : Nat} (hn : 1 < n) (k : Nat) : (n - 1) ^ (2 * k + 1) % n = n - 1 := by
  have hmod : (n - 1) ^ (2 * k + 1) ≡ n - 1 [MOD n] := by
    simpa [pow_succ, pow_mul] using ((pred_sq_modEq hn).pow k).mul_right (n - 1)
  rw [hmod, Nat.mod_eq_of_lt (by omega)]

/-- Settles O52: 0, 1 and n - 1 are their own odd powers modulo n, n is 0, and powers are taken of
residues. -/
theorem modExpFixedPoints : Obligations.ModExpFixedPoints := by
  intro n hlo hn _
  have hpos := pos_of_admissible hlo
  refine ⟨?zero, ?one, ?pred, ?modulus, fun b _ => ⟨?bound, ?reduced, ?square⟩⟩
  case zero =>
    rw [modExp_i2osp (lt_block_of_lt hn (Nat.zero_le n)), Nat.zero_pow (by decide), Nat.zero_mod]
  case one => rw [modExp_i2osp (lt_block_of_lt hn hpos.le), one_pow, Nat.mod_eq_of_lt hpos]
  case pred =>
    rw [modExp_i2osp (lt_block_of_lt hn (Nat.sub_le n 1)), pred_pow_mod hpos 0x8000]
  case modulus =>
    rw [modExp_i2osp (lt_block_of_lt hn le_rfl),
      Nat.mod_eq_zero_of_dvd (dvd_pow_self n (by decide))]
  case bound =>
    rw [os2ip_modExp hlo hn]
    exact Nat.mod_lt _ (Nat.zero_lt_of_lt hpos)
  case reduced =>
    rw [modExp_eq]
    exact congrArg (i2osp · 128) ((Nat.mod_modEq (os2ip b) n).symm.pow 0x10001)
  case square => rw [modExp_eq, os2ip_modExp hlo hn, pow_mod_pow_mod]

/-! ### A ciphertext made with a secret exponent (R113) -/

/-- The block that the holder of the secret exponent `d` makes of a chunk. -/
def signedBlock (n d : Nat) (ch : List Byte) : List Byte :=
  i2osp (os2ip (padBlock ch) ^ d % n) 128

/-- The transform takes such a block back to the padded chunk. -/
theorem modExp_signedBlock {n d : Nat} {ch : List Byte} (hlo : 2 ^ 1023 ≤ n) (hn : n < 2 ^ 1024)
    (hd : ∀ x < n, x ^ (0x10001 * d) % n = x) (hch : ch.length ≤ 117) :
    modExp n (signedBlock n d ch) = padBlock ch := by
  have hlt := Nat.mod_lt (os2ip (padBlock ch) ^ d) (Nat.zero_lt_of_lt (pos_of_admissible hlo))
  rw [signedBlock, modExp_i2osp (lt_block_of_lt hn hlt.le), pow_mod_pow_mod,
    hd _ (os2ip_padBlock_lt_modulus hch hlo)]
  conv_lhs => rw [← padBlock_length hch, i2osp_os2ip]

/-- A join of 128-byte blocks is cut into the same blocks. -/
theorem blocks_flatten {bs : List (List Byte)} (h : ∀ b ∈ bs, b.length = 128) :
    blocks bs.flatten = bs := by
  have hlen : bs.flatten.length = 128 * bs.length := by
    rw [List.length_flatten, List.eq_replicate_iff.2 ⟨List.length_map _, by simpa using h⟩,
      List.sum_replicate, smul_eq_mul, Nat.mul_comm]
  have hcount : (blocks bs.flatten).length = bs.length := by
    rw [blocks_length, hlen, Nat.mul_div_cancel_left _ (by decide)]
  refine List.ext_getElem hcount fun i hi hi' => ?_
  rw [blocks_getElem, slice_flatten h hi']

/-- The accumulator of such blocks is the join of the chunks. -/
theorem accumulate_signedBlocks {n d : Nat} {pieces : List (List Byte)} (hlo : 2 ^ 1023 ≤ n)
    (hn : n < 2 ^ 1024) (hd : ∀ x < n, x ^ (0x10001 * d) % n = x)
    (hpieces : ∀ ch ∈ pieces, ch.length ≤ 117) :
    accumulate n (pieces.flatMap (signedBlock n d)) = .ok pieces.flatten := by
  have hblocks : ∀ b ∈ pieces.map (signedBlock n d), b.length = 128 := by
    simp [signedBlock]
  rw [accumulate, List.flatMap_def, blocks_flatten hblocks]
  refine accumulateBlocks_of_forall₂ (List.forall₂_map_left_iff.2 (List.forall₂_same.2 ?_))
  intro ch hch
  rw [modExp_signedBlock hlo hn hd (hpieces ch hch), unpadBlock_padBlock (hpieces ch hch)]

/-- Settles O58: the accumulator is the head and the encrypted plaintext, whose layer the head's key
undoes. -/
theorem decryptOfPrivateCiphertext : Obligations.DecryptOfPrivateCiphertext := by
  intro n d kt head p pieces hlo hn hd hhead hpieces hjoin
  have hacc := accumulate_signedBlocks hlo hn hd hpieces
  rw [hjoin] at hacc
  refine decryptBytes_ok.2 ⟨_, hacc, ?length, ?key, ?plaintext⟩
  case length =>
    rw [List.length_append, hhead]
    exact Nat.le_add_right _ _
  case key => rw [List.take_left' hhead]
  case plaintext =>
    rw [List.drop_left' hhead]
    exact (xorDec_xorAlign_revBytes p _).symm

end Sys2Proof.Machine
end

section
/-! The two reduction methods compute the exact transform (43_modexp.md R102): each is a modular
product on representatives of residues, and square-and-multiply on representatives is a power. -/

namespace Sys2Proof.Machine

/-! ### Square and multiply -/

theorem squarings_rep {mul : Nat → Nat → Nat} {rep : Nat → Nat}
    (hmul : ∀ a b, mul (rep a) (rep b) = rep (a * b)) (k x : Nat) :
    squarings mul k (rep x) = rep (x ^ 2 ^ k) := by
  induction k generalizing x with
  | zero => rw [squarings, pow_zero, pow_one]
  | succ k ih => rw [squarings, hmul, ih, ← pow_two, ← pow_mul, pow_succ' 2 k]

/-- Whatever the representatives are, 16 squarings and one product raise to the power `2^16 + 1`. -/
theorem squareMultiply_rep {mul : Nat → Nat → Nat} {rep : Nat → Nat}
    (hmul : ∀ a b, mul (rep a) (rep b) = rep (a * b)) (x : Nat) :
    squareMultiply mul (rep x) = rep (x ^ 0x10001) := by
  rw [squareMultiply, squarings_rep hmul, hmul, ← pow_succ, show 2 ^ 16 + 1 = 0x10001 by rfl]

/-- A value below `2n` has at most one `n` too many. -/
theorem sub_once_eq_mod {n r : Nat} (h : r < 2 * n) : (if r < n then r else r - n) = r % n := by
  split
  next hlt => exact (Nat.mod_eq_of_lt hlt).symm
  next hge => rw [Nat.mod_eq_sub_mod (Nat.not_lt.1 hge), Nat.mod_eq_of_lt (by omega)]

/-! ### Barrett reduction -/

/-- The quotient estimate of Barrett's method: at most the quotient, and at most one below it. -/
theorem barrett_estimate {n t B : Nat} (hn : 0 < n) (ht : t < B) :
    t * (B / n) / B * n ≤ t ∧ t < (t * (B / n) / B + 2) * n := by
  have hB : 0 < B := Nat.zero_lt_of_lt ht
  have hmu : B / n * n ≤ B := Nat.div_mul_le_self B n
  have hmu' : B < (B / n + 1) * n := by
    rw [Nat.mul_comm]
    exact Nat.lt_mul_div_succ B hn
  generalize B / n = mu at *
  have hq : t * mu / B * B ≤ t * mu := Nat.div_mul_le_self _ B
  have hq' : t * mu < (t * mu / B + 1) * B := by
    rw [Nat.mul_comm _ B]
    exact Nat.lt_mul_div_succ _ hB
  generalize t * mu / B = q at *
  constructor
  · refine Nat.le_of_mul_le_mul_right (c := B) ?_ hB
    calc q * n * B = q * B * n := by ring
      _ ≤ t * mu * n := Nat.mul_le_mul_right n hq
      _ = t * (mu * n) := by ring
      _ ≤ t * B := Nat.mul_le_mul_left t hmu
  · refine Nat.lt_of_mul_lt_mul_right (a := B) ?_
    calc t * B ≤ t * ((mu + 1) * n) := Nat.mul_le_mul_left t hmu'.le
      _ = t * mu * n + t * n := by ring
      _ < (q + 1) * B * n + B * n := Nat.add_lt_add (Nat.mul_lt_mul_of_pos_right hq' hn)
          (Nat.mul_lt_mul_of_pos_right ht hn)
      _ = (q + 2) * n * B := by ring

theorem barrettReduce_eq {n t : Nat} (hn : 0 < n) (ht : t < 2 ^ 2048) :
    barrettReduce n t = t % n := by
  obtain ⟨hle, hlt⟩ := barrett_estimate hn ht
  rw [barrettReduce, barrettMu]
  generalize t * (2 ^ 2048 / n) / 2 ^ 2048 = q at *
  have hbound : t - q * n < 2 * n := by
    rw [Nat.add_mul] at hlt
    omega
  rw [sub_once_eq_mod hbound, Nat.mul_comm, Nat.sub_mul_mod (by rwa [Nat.mul_comm])]

/-- The product of two residues of a 1024-bit modulus fits in 2048 bits. -/
theorem mul_lt_of_residues {n a b : Nat} (hn : n < 2 ^ 1024) (ha : a < n) (hb : b < n) :
    a * b < 2 ^ 2048 := calc
  a * b < n * n := Nat.mul_lt_mul'' ha hb
  _ ≤ 2 ^ 1024 * 2 ^ 1024 := Nat.mul_le_mul hn.le hn.le
  _ = 2 ^ 2048 := by rw [← pow_add]

theorem powBarrett_eq {n x : Nat} (hn : 0 < n) (hn' : n < 2 ^ 1024) (hx : x < 2 ^ 1024) :
    powBarrett n x = x ^ 0x10001 % n := by
  have hmul (a b : Nat) : barrettReduce n (a % n * (b % n)) = a * b % n := by
    rw [barrettReduce_eq hn (mul_lt_of_residues hn' (Nat.mod_lt a hn) (Nat.mod_lt b hn)),
      ← Nat.mul_mod]
  have hx' : x < 2 ^ 2048 := hx.trans (pow_lt_pow_right₀ (by decide) (by decide))
  rw [powBarrett, barrettReduce_eq hn hx']
  exact squareMultiply_rep (rep := (· % n)) hmul x

/-! ### Montgomery reduction -/

/-- One round of Newton's iteration squares the error `n * y - 1` of the inverse. -/
theorem inverse_round {n y R D : Nat} (hR : 0 < R) (hDR : D * D ∣ R)
    (h : (D : Int) ∣ n * y - 1) :
    ((D * D : Nat) : Int) ∣ n * (y * (2 + (R - n * y % R)) % R : Nat) - 1 := by
  obtain ⟨c, hc⟩ := h
  obtain ⟨e, rfl⟩ := hDR
  have hle : n * y % (D * D * e) ≤ D * D * e := (Nat.mod_lt _ hR).le
  push_cast [Nat.cast_sub hle]
  rw [Int.emod_def, Int.emod_def]
  generalize (n * y : Int) / (D * D * e) = q
  generalize (y * (2 + (D * D * e - (n * y - D * D * e * q))) : Int) / (D * D * e) = p
  refine ⟨e * (n * y * (1 + q) - n * p) - c ^ 2, ?_⟩
  linear_combination (-(n * y - 1 + D * c) : Int) * hc

theorem inverseRounds_spec {n : Nat} (hodd : n % 2 = 1) {k : Nat} (hk : k ≤ 10) :
    ((2 ^ 2 ^ k : Nat) : Int) ∣ n * inverseRounds n k - 1 := by
  induction k with
  | zero =>
    have hpred : (2 : Int) ∣ n - 1 := by omega
    simpa [inverseRounds] using hpred
  | succ k ih =>
    have hexp : 2 ^ k + 2 ^ k ≤ 1024 := calc
      2 ^ k + 2 ^ k = 2 ^ (k + 1) := by rw [pow_succ, Nat.mul_two]
      _ ≤ 2 ^ 10 := Nat.pow_le_pow_right (by decide) hk
    have hdvd : 2 ^ 2 ^ k * 2 ^ 2 ^ k ∣ 2 ^ 1024 := by
      rw [← pow_add]
      exact pow_dvd_pow 2 hexp
    rw [inverseRounds, pow_succ 2 k, Nat.mul_two, pow_add]
    exact inverse_round (pow_pos Nat.two_pos 1024) hdvd (ih (Nat.le_of_succ_le hk))

theorem inverseRounds_le (n k : Nat) : inverseRounds n k ≤ 2 ^ 1024 := by
  cases k with
  | zero => exact one_le_pow₀ (by decide)
  | succ k =>
    rw [inverseRounds]
    exact (Nat.mod_lt _ (pow_pos Nat.two_pos 1024)).le

/-- The multiple of `n` that Montgomery's method adds makes the sum divisible by `R`. -/
theorem montgomery_dvd {n y R t : Nat} (hy : y ≤ R) (h : (R : Int) ∣ n * y - 1) :
    R ∣ t + t % R * (R - y) % R * n := by
  obtain ⟨c, hc⟩ := h
  rw [← Int.natCast_dvd_natCast]
  push_cast [Nat.cast_sub hy]
  rw [Int.emod_def, Int.emod_def]
  generalize (t : Int) / R = q
  generalize ((t - R * q) * (R - y) : Int) / R = p
  refine ⟨((t - R * q) + q * y - p) * n - t * c, ?_⟩
  linear_combination (-t : Int) * hc

theorem gcd_two_pow_of_odd {n : Nat} (hodd : n % 2 = 1) (k : Nat) : Nat.gcd n (2 ^ k) = 1 :=
  (Nat.coprime_two_right.2 (Nat.odd_iff.2 hodd)).pow_right k

/-- Montgomery reduction of `t` is the residue `x` with `x * R = t` modulo `n`. -/
theorem montgomeryReduce_eq {n t x : Nat} (hodd : n % 2 = 1) (ht : t < 2 ^ 1024 * n)
    (hx : x * 2 ^ 1024 ≡ t [MOD n]) : montgomeryReduce n t = x % n := by
  have hcoprime := gcd_two_pow_of_odd hodd 1024
  have hinverse := inverseRounds_spec hodd (k := 10) le_rfl
  rw [show 2 ^ 10 = 1024 by rfl] at hinverse
  have hdvd := montgomery_dvd (t := t) (inverseRounds_le n 10) hinverse
  have hR : 0 < 2 ^ 1024 := pow_pos Nat.two_pos 1024
  rw [montgomeryReduce, montgomeryNPrime]
  generalize 2 ^ 1024 = R at *
  have hm : t % R * (R - inverseRounds n 10) % R < R := Nat.mod_lt _ hR
  generalize t % R * (R - inverseRounds n 10) % R = m at *
  obtain ⟨r, hr⟩ := hdvd
  have hbound : r < 2 * n := by
    refine Nat.lt_of_mul_lt_mul_left (a := R) ?_
    calc R * r = t + m * n := hr.symm
      _ < R * n + R * n := Nat.add_lt_add_of_lt_of_le ht (Nat.mul_le_mul_right n hm.le)
      _ = R * (2 * n) := by ring
  have hmod : r * R ≡ x * R [MOD n] := calc
    r * R = t + m * n := by rw [hr, Nat.mul_comm]
    _ ≡ t [MOD n] := Nat.add_mul_mod_self_right t m n
    _ ≡ x * R [MOD n] := hx.symm
  simp only [hr, Nat.mul_div_cancel_left r hR]
  rw [sub_once_eq_mod hbound]
  exact hmod.cancel_right_of_coprime hcoprime

/-- The Montgomery form of `a`: the representative `a * R mod n`. -/
def montgomeryForm (n a : Nat) : Nat := a * 2 ^ 1024 % n

theorem montgomeryForm_modEq (n a : Nat) : montgomeryForm n a ≡ a * 2 ^ 1024 [MOD n] :=
  Nat.mod_modEq _ _

theorem montgomeryForm_lt {n : Nat} (hn : 0 < n) (a : Nat) : montgomeryForm n a < n :=
  Nat.mod_lt _ hn

section
variable {n : Nat} (hn : 0 < n) (hn' : n < 2 ^ 1024) (hodd : n % 2 = 1)
include hn hodd

/-- Into Montgomery form, by the product with `R^2 mod n`. -/
theorem montgomeryReduce_into {x : Nat} (hx : x < 2 ^ 1024) :
    montgomeryReduce n (x * (2 ^ 2048 % n)) = montgomeryForm n x := by
  refine montgomeryReduce_eq hodd (Nat.mul_lt_mul'' hx (Nat.mod_lt _ hn)) ?_
  calc x * 2 ^ 1024 * 2 ^ 1024 = x * 2 ^ 2048 := by rw [Nat.mul_assoc, ← pow_add]
    _ ≡ x * (2 ^ 2048 % n) [MOD n] := ((Nat.mod_modEq _ _).mul_left x).symm

include hn'

theorem montgomeryReduce_mul (a b : Nat) :
    montgomeryReduce n (montgomeryForm n a * montgomeryForm n b) = montgomeryForm n (a * b) := by
  have hlt : montgomeryForm n a < 2 ^ 1024 := (montgomeryForm_lt hn a).trans hn'
  refine montgomeryReduce_eq hodd (Nat.mul_lt_mul'' hlt (montgomeryForm_lt hn b)) ?_
  calc a * b * 2 ^ 1024 * 2 ^ 1024 = a * 2 ^ 1024 * (b * 2 ^ 1024) := by
        rw [Nat.mul_assoc (a * b), Nat.mul_mul_mul_comm]
    _ ≡ montgomeryForm n a * montgomeryForm n b [MOD n] :=
      ((montgomeryForm_modEq n a).mul (montgomeryForm_modEq n b)).symm

/-- Out of Montgomery form. -/
theorem montgomeryReduce_out (y : Nat) : montgomeryReduce n (montgomeryForm n y) = y % n := by
  have hlt : montgomeryForm n y < 2 ^ 1024 := (montgomeryForm_lt hn y).trans hn'
  exact montgomeryReduce_eq hodd (hlt.trans_le (Nat.le_mul_of_pos_right _ hn))
    (montgomeryForm_modEq n y).symm

theorem powMontgomery_eq {x : Nat} (hx : x < 2 ^ 1024) :
    powMontgomery n x = x ^ 0x10001 % n := by
  rw [powMontgomery, montgomeryReduce_into hn hodd hx,
    squareMultiply_rep (mul := fun a b => montgomeryReduce n (a * b))
      (montgomeryReduce_mul hn hn' hodd) x,
    montgomeryReduce_out hn hn' hodd]

end

/-! ### The statement -/

/-- Settles O53: both methods are square-and-multiply on representatives, of residues themselves for
Barrett's and of residues times 2^1024 for Montgomery's. -/
theorem reductionMethodsExact : Obligations.ReductionMethodsExact := by
  have exact_method (m : Config.ReductionMethod) (n x : Nat) (hlo : 2 ^ 1023 ≤ n)
      (hn : n < 2 ^ 1024) (hodd : n % 2 = 1) (hx : x < 2 ^ 1024) :
      powBy m n x = x ^ 0x10001 % n := by
    have hpos : 0 < n := Nat.zero_lt_of_lt (pos_of_admissible hlo)
    cases m with
    | montgomery => exact powMontgomery_eq hpos hn hodd hx
    | barrett => exact powBarrett_eq hpos hn hx
  refine ⟨exact_method, fun b hb => ?block⟩
  case block =>
    have hlt : os2ip b < 2 ^ 1024 := by
      rw [← pow_256_128, ← hb]
      exact os2ip_lt b
    rw [engineBlock, modExp_eq,
      exact_method _ _ _ Config.modN_lower Config.modN_upper Config.modN_odd hlt]

end Sys2Proof.Machine
end
